-- ==== Sys2Proof/Word.lean ====
section
/-! DEFINITION. The words of the block: bytes of the framebuffer, command words (R70, 30_encoding.md) and
response words (R85, 30_encoding.md). -/

namespace Sys2Proof

/-- One byte of the framebuffer (R24). -/
abbrev Byte := BitVec 8

/-- A command word `cmd[63:0]` (R70). -/
abbrev CmdWord := BitVec 64

/-- A response word (R85). -/
abbrev RspWord := BitVec 32

end Sys2Proof
end

