-- ==== Sys2Proof/Syntax.lean ====
section
/-! DEFINITION. The commands of the block, one constructor per row of the opcode map (R73, 30_encoding.md), with
the operands as R72 assembles them: coordinates and indices are the integers the field stands for. -/

namespace Sys2Proof

/-- One of the four orientations (R25). -/
inductive Rotation where
  /-- 0°, encoded 0. -/
  | deg0
  /-- 90°, encoded 1. -/
  | deg90
  /-- 180°, encoded 2. -/
  | deg180
  /-- 270°, encoded 3. -/
  | deg270
  deriving DecidableEq, Repr

/-- The ten commands (R73). A Bool operand is `s`, true = opaque or on (R70, R112). -/
inductive Instr where
  /-- SETPIXEL x, y, s (R110). -/
  | setPixel (x y : Int) (b : Bool)
  /-- GETPIXEL x, y (R111). -/
  | getPixel (x y : Int)
  /-- FILL s (R130). -/
  | fill (b : Bool)
  /-- SETBIT byteIndex, bitOffset, s (R133). -/
  | setBit (byteIndex bitOffset : Nat) (b : Bool)
  /-- GETBIT byteIndex, bitOffset (R135). -/
  | getBit (byteIndex bitOffset : Nat)
  /-- SETROT r (R113). -/
  | setRot (r : Rotation)
  /-- GETWIDTH (R114). -/
  | getWidth
  /-- GETHEIGHT (R115). -/
  | getHeight
  /-- FLUSH (R151). -/
  | flush
  /-- AUXCLK s (R180). -/
  | auxClk (b : Bool)
  deriving DecidableEq, Repr

end Sys2Proof
end

