-- ==== Sys2Proof/WellFormed.lean ====
section
/-! DEFINITION. Which commands have an encoding: every operand within the range of its field (R72, R78). An
operand outside its range is an assembly error, not an encoding. -/

namespace Sys2Proof

/-- A coordinate fits the signed 16-bit field (R72, R78). -/
def coordinateInRange (v : Int) : Bool := decide (-32768 ≤ v ∧ v ≤ 32767)

/-- A byte index fits the unsigned 16-bit field (R72, R78). -/
def byteIndexInRange (n : Nat) : Bool := decide (n ≤ 65535)

/-- A bit offset fits the 3-bit field (R72, R78). -/
def bitOffsetInRange (n : Nat) : Bool := decide (n ≤ 7)

/-- Every operand of the command is within its range (R78). -/
def Instr.wf : Instr → Bool
  | .setPixel x y _ => coordinateInRange x && coordinateInRange y
  | .getPixel x y => coordinateInRange x && coordinateInRange y
  | .fill _ => true
  | .setBit byteIndex bitOffset _ => byteIndexInRange byteIndex && bitOffsetInRange bitOffset
  | .getBit byteIndex bitOffset => byteIndexInRange byteIndex && bitOffsetInRange bitOffset
  | .setRot _ => true
  | .getWidth => true
  | .getHeight => true
  | .flush => true
  | .auxClk _ => true

end Sys2Proof
end

