-- ==== Sys2Proof/Decode.lean ====
section
/-! DEFINITION. Decoding a command word (R70 to R77, 30_encoding.md), total on all 2^64 words and rejecting by
name, and the encoder (R78). -/

namespace Sys2Proof

/-- The formats of R71. -/
inductive Format where
  /-- Pixel, with state. -/
  | fp
  /-- Pixel query. -/
  | fq
  /-- Bit, with state. -/
  | fb
  /-- Bit query. -/
  | fc
  /-- State only. -/
  | fs
  /-- Rotation. -/
  | fr
  /-- No operand. -/
  | fn
  deriving DecidableEq, Repr

/-- Why a word is no command. Both are answered ILLEGAL (R202). -/
inductive Reject where
  /-- The opcode is 0x0 or 0xB to 0xF (R74). -/
  | reservedOpcode (op : BitVec 4)
  /-- The opcode is legal and a bit its format requires to be 0 is 1 (R75). -/
  | mustBeZero (op : BitVec 4)
  deriving DecidableEq, Repr

/-- One row of the opcode map (R73, R76): a word `w` is the row's when `w &&& mask = pattern`. -/
structure OpRow where
  /-- The row's mnemonic. -/
  mnemonic : String
  /-- The row's format (R71). -/
  format : Format
  /-- Which bits the row fixes. -/
  mask : CmdWord
  /-- What the fixed bits are; its low four bits are the opcode. -/
  pattern : CmdWord
  /-- How the operands are read from the free bits (R72). -/
  operands : CmdWord → Instr

/-- The bits a format requires to be 0 (R71). -/
def Format.mustBeZero : Format → CmdWord
  | .fp => 0xFFFF00000000FFE0#64
  | .fq => 0xFFFF00000000FFF0#64
  | .fb => 0xFFFFFFF80000FFE0#64
  | .fc => 0xFFFFFFF80000FFF0#64
  | .fs => 0xFFFFFFFFFFFFFFE0#64
  | .fr => 0xFFFFFFFFFFFFFCF0#64
  | .fn => 0xFFFFFFFFFFFFFFF0#64

/-- The code of an orientation (R25). -/
def Rotation.code : Rotation → BitVec 2
  | .deg0 => 0
  | .deg90 => 1
  | .deg180 => 2
  | .deg270 => 3

/-- The orientation a 2-bit code names; every code names one (R25). -/
def Rotation.ofCode (v : BitVec 2) : Rotation :=
  if v = 0 then .deg0 else if v = 1 then .deg90 else if v = 2 then .deg180 else .deg270

/-- `op = cmd[3:0]` (R70). -/
def opField (w : CmdWord) : BitVec 4 := w.extractLsb' 0 4

/-- `s = cmd[4]` (R70, R72). -/
def stateField (w : CmdWord) : Bool := w.getLsbD 4

/-- `r = cmd[9:8]` (R70, R72). -/
def rotationField (w : CmdWord) : Rotation := Rotation.ofCode (w.extractLsb' 8 2)

/-- `A = cmd[31:16]` (R70). -/
def aField (w : CmdWord) : BitVec 16 := w.extractLsb' 16 16

/-- `B = cmd[47:32]` (R70). -/
def bField (w : CmdWord) : BitVec 16 := w.extractLsb' 32 16

/-- `x = sint16(cmd[31:16])` (R72). -/
def xField (w : CmdWord) : Int := (aField w).toInt

/-- `y = sint16(cmd[47:32])` (R72). -/
def yField (w : CmdWord) : Int := (bField w).toInt

/-- `byteIndex = zext(cmd[31:16])` (R72). -/
def byteIndexField (w : CmdWord) : Nat := (aField w).toNat

/-- `bitOffset = cmd[34:32]` (R72). -/
def bitOffsetField (w : CmdWord) : Nat := (w.extractLsb' 32 3).toNat

/-- The row of SETPIXEL (R73, R110). -/
def rowSetPixel : OpRow where
  mnemonic := "SETPIXEL"
  format := .fp
  mask := 0xFFFF00000000FFEF#64
  pattern := 0x1#64
  operands := fun w => .setPixel (xField w) (yField w) (stateField w)

/-- The row of GETPIXEL (R73, R111). -/
def rowGetPixel : OpRow where
  mnemonic := "GETPIXEL"
  format := .fq
  mask := 0xFFFF00000000FFFF#64
  pattern := 0x2#64
  operands := fun w => .getPixel (xField w) (yField w)

/-- The row of FILL (R73, R130). -/
def rowFill : OpRow where
  mnemonic := "FILL"
  format := .fs
  mask := 0xFFFFFFFFFFFFFFEF#64
  pattern := 0x3#64
  operands := fun w => .fill (stateField w)

/-- The row of SETBIT (R73, R133). -/
def rowSetBit : OpRow where
  mnemonic := "SETBIT"
  format := .fb
  mask := 0xFFFFFFF80000FFEF#64
  pattern := 0x4#64
  operands := fun w => .setBit (byteIndexField w) (bitOffsetField w) (stateField w)

/-- The row of GETBIT (R73, R135). -/
def rowGetBit : OpRow where
  mnemonic := "GETBIT"
  format := .fc
  mask := 0xFFFFFFF80000FFFF#64
  pattern := 0x5#64
  operands := fun w => .getBit (byteIndexField w) (bitOffsetField w)

/-- The row of SETROT (R73, R113). -/
def rowSetRot : OpRow where
  mnemonic := "SETROT"
  format := .fr
  mask := 0xFFFFFFFFFFFFFCFF#64
  pattern := 0x6#64
  operands := fun w => .setRot (rotationField w)

/-- The row of GETWIDTH (R73, R114). -/
def rowGetWidth : OpRow where
  mnemonic := "GETWIDTH"
  format := .fn
  mask := 0xFFFFFFFFFFFFFFFF#64
  pattern := 0x7#64
  operands := fun _ => .getWidth

/-- The row of GETHEIGHT (R73, R115). -/
def rowGetHeight : OpRow where
  mnemonic := "GETHEIGHT"
  format := .fn
  mask := 0xFFFFFFFFFFFFFFFF#64
  pattern := 0x8#64
  operands := fun _ => .getHeight

/-- The row of FLUSH (R73, R151). -/
def rowFlush : OpRow where
  mnemonic := "FLUSH"
  format := .fn
  mask := 0xFFFFFFFFFFFFFFFF#64
  pattern := 0x9#64
  operands := fun _ => .flush

/-- The row of AUXCLK (R73, R180). -/
def rowAuxClk : OpRow where
  mnemonic := "AUXCLK"
  format := .fs
  mask := 0xFFFFFFFFFFFFFFEF#64
  pattern := 0xA#64
  operands := fun w => .auxClk (stateField w)

/-- The opcode map (R73), mask and pattern as spec/opcode_table.json lists them (R76). -/
def opTable : List OpRow :=
  [rowSetPixel, rowGetPixel, rowFill, rowSetBit, rowGetBit,
   rowSetRot, rowGetWidth, rowGetHeight, rowFlush, rowAuxClk]

/-- The word is the row's (R76). -/
def OpRow.hits (row : OpRow) (w : CmdWord) : Bool := w &&& row.mask == row.pattern

/-- The word's opcode is the row's (R73). -/
def OpRow.sameOpcode (row : OpRow) (w : CmdWord) : Bool := opField w == opField row.pattern

/-- The command a word stands for, or why it is none (R74 to R77). -/
def decode (w : CmdWord) : Except Reject Instr :=
  match opTable.find? (·.hits w) with
  | some row => .ok (row.operands w)
  | none =>
    if opTable.any (·.sameOpcode w) then .error (.mustBeZero (opField w))
    else .error (.reservedOpcode (opField w))

/-- The command read from an instruction of `nbits` bits numbered as spec/opcode_table.json numbers them. A command
is exactly one 64-bit word (R77), which travels in parallel, so no byte order applies (R53). -/
def decodeTableWord (nbits w : Nat) : Option Instr :=
  if nbits ≤ 64 then
    match decode (BitVec.ofNat 64 (w % 2 ^ nbits)) with
    | .ok i => some i
    | .error _ => none
  else none

/-- The assembler's word, `op | s<<4 | r<<8 | (A & 0xFFFF)<<16 | (B & 0xFFFF)<<32` (R78). -/
def packWord (op : BitVec 4) (b : Bool) (r : BitVec 2) (A B : BitVec 16) : CmdWord :=
  op.setWidth 64 ||| ((BitVec.ofBool b).setWidth 64 <<< 4) ||| (r.setWidth 64 <<< 8) |||
    (A.setWidth 64 <<< 16) ||| (B.setWidth 64 <<< 32)

/-- The word of a well-formed command (R73, R78); fields the format does not use are 0. -/
def encode : Instr → CmdWord
  | .setPixel x y b => packWord 0x1 b 0 (BitVec.ofInt 16 x) (BitVec.ofInt 16 y)
  | .getPixel x y => packWord 0x2 false 0 (BitVec.ofInt 16 x) (BitVec.ofInt 16 y)
  | .fill b => packWord 0x3 b 0 0 0
  | .setBit byteIndex bitOffset b => packWord 0x4 b 0 (BitVec.ofNat 16 byteIndex) (BitVec.ofNat 16 bitOffset)
  | .getBit byteIndex bitOffset => packWord 0x5 false 0 (BitVec.ofNat 16 byteIndex) (BitVec.ofNat 16 bitOffset)
  | .setRot r => packWord 0x6 false r.code 0 0
  | .getWidth => packWord 0x7 false 0 0 0
  | .getHeight => packWord 0x8 false 0 0 0
  | .flush => packWord 0x9 false 0 0 0
  | .auxClk b => packWord 0xA b 0 0 0

end Sys2Proof
end

