-- ==== Sys2Proof/Config.lean ====
section
/-! DEFINITION. What the build fixes (R6, 00_scope.md; R23, 10_state.md) and the values the spec leaves open. -/

namespace Sys2Proof

/-- The configuration `cfg`, fixed by the build (R6, R22). Every combination of values is a configuration; which
are legal is R7 (`Config.legal`, Machine/Geometry.lean). `RPH39`, the parameter the spec leaves open (D12), is the
value of `rph` where `pw` = 39 (DEDUCED, log 13). -/
structure Config where
  /-- `panelWidthPx`: pixels per panel, horizontally. -/
  pw : Nat
  /-- `registersPerHalf`: 40-bit shift registers in one half of one panel. -/
  rph : Nat
  /-- `panelCount`: daisy-chained panels. -/
  pc : Nat
  /-- `AUX_RESET`: the aux-clock enable after reset, default off (R181). -/
  auxReset : Bool := false
  /-- `SCLK_HZ`: serial clock rate; timing only, no rule reads it (R163, log 12). -/
  sclkHz : Nat := 100000
  /-- `SPI_MODE`: clock polarity and phase; no rule reads it (R163, log 12). -/
  spiMode : Nat := 0
  deriving DecidableEq, Repr

/-- The single-panel 29-pixel build of the spec's own scenarios (40_addressing.md, first lines), which
`State.reset` uses (DESIGN CHOICE, log 1). -/
def Config.singlePanel29 : Config where
  pw := 29
  rph := 10
  pc := 1

/-- The level of `sdo` after a reset, which the spec leaves at any value (R220, I4): a free value, one for each
reset (log 5). -/
opaque Config.freeSdo : Nat → Bool

/-- What cell `k` of the chain's shift registers holds at power-up, any value (R168, I5): a free value (log 6). -/
opaque Config.powerUpChain : Nat → Bool

/-- What cell `k` of the chain's output latches holds at power-up, any value (R168, I5): a free value (log 6). -/
opaque Config.powerUpVisible : Nat → Bool

end Sys2Proof
end

