-- ==== Sys2Proof/Machine/Chain.lean ====
section
/-! DEFINITION. The block's observable events (R150, 42_transmission.md) and the reference model of the external
shift-register chain that reacts to them (R168). -/

namespace Sys2Proof.Machine

/-- An event of the observable trace (R150). -/
inductive Event where
  /-- `Rsp(w)`: a response word is presented. -/
  | rsp (w : RspWord)
  /-- `SessionOpen`: the serial session opens. -/
  | sessionOpen
  /-- `SessionClose`: the serial session closes. -/
  | sessionClose
  /-- `Latch(v)`: the block drives the latch line to `v`, changed or not. -/
  | latch (v : Bool)
  /-- `Bit(v)`: one serial bit, `sdo` = `v` at a rising edge of `sck`. -/
  | bit (v : Bool)
  /-- `EnableOut(v)`: `enable_out` changes to `v`. -/
  | enableOut (v : Bool)
  /-- `Reset`: a reset occurred. -/
  | reset
  deriving DecidableEq, Repr

/-- The environment's chain (R168): staged bits, output latches, and the latch level last seen. Cell 0 is at the
data-input end. -/
structure Env where
  /-- `chain[0..NBITS−1]`, the staged bits. -/
  chain : List Bool
  /-- `visible[0..NBITS−1]`, the output latches. -/
  visible : List Bool
  /-- `lvl`, the latch level the chain last saw. -/
  lvl : Bool
  deriving DecidableEq, Repr

/-- Every cell takes its neighbour's bit and cell 0 takes `v`; the number of cells stays (R168). -/
def shiftIn (v : Bool) (cells : List Bool) : List Bool := (v :: cells).take cells.length

/-- How the chain reacts to one event of the block (R168). -/
def Env.react (env : Env) : Event → Env
  | .bit v => { env with chain := shiftIn v env.chain }
  | .latch v => { env with visible := if v && !env.lvl then env.chain else env.visible, lvl := v }
  | .reset => { env with lvl := false }
  | .rsp _ => env
  | .sessionOpen => env
  | .sessionClose => env
  | .enableOut _ => env

/-- The chain at power-up, `cells` bits long: contents at any value, level low (R168, I5, log 6). -/
def powerUpEnv (cells : Nat) : Env where
  chain := (List.range cells).map Config.powerUpChain
  visible := (List.range cells).map Config.powerUpVisible
  lvl := false

end Sys2Proof.Machine
end

