-- ==== Sys2Proof/Machine/Geometry.lean ====
section
/-! DEFINITION. Legal configurations (R7, 00_scope.md) and the quantities derived from one (R8). -/

namespace Sys2Proof

/-- `W`: the physical width of the surface (R8). -/
def Config.width (c : Config) : Nat := c.pw * c.pc

/-- `H`: the physical height of the surface, fixed 24 (R8). -/
def Config.height (_ : Config) : Nat := 24

/-- `N`: the framebuffer's length in bytes (R8). -/
def Config.byteCount (c : Config) : Nat := c.pc * c.rph * 10

/-- `NBITS`: the framebuffer's length in bits (R8). -/
def Config.bitCount (c : Config) : Nat := c.pc * c.rph * 80

/-- `HALF_BITS`: the bits of one half (R8). -/
def Config.halfBits (c : Config) : Nat := c.pc * c.rph * 40

/-- `NREG`: the 40-bit registers of the whole chain (R8). -/
def Config.registerCount (c : Config) : Nat := 2 * c.pc * c.rph

/-- `blankColumns`: column slots of a panel half that no pixel uses (R8). -/
def Config.blankColumns (c : Config) : Nat := c.rph * 3 - c.pw

/-- The configuration is legal (R7). -/
def Config.legal (c : Config) : Bool :=
  decide ((c.pw = 29 ∧ c.rph = 10 ∨ c.pw = 39 ∧ 13 ≤ c.rph ∧ c.rph ≤ 25) ∧
    1 ≤ c.pc ∧ c.pc ≤ 255 ∧ c.pw ≤ c.rph * 3)

end Sys2Proof
end

