-- ==== Sys2Proof/Machine/State.lean ====
section
/-! DEFINITION. The complete state of the block (R22, 10_state.md), its ports, its trace and the environment's
chain, as plain data; the reasons a step can stop; the state after reset (R220, 70_reset_and_hazards.md). -/

namespace Sys2Proof.Machine

/-- Why the machine stops. Nothing in the spec stops the block ("`stuck` never happens", I12); the one reason
belongs to states no run reaches. -/
inductive Fault where
  /-- A framebuffer access outside bytes 0 to `N` − 1 (R12, R50). Raised by the flush FSM when its cursor lies
  outside the buffer, and by SETPIXEL or GETPIXEL when the Addressing Engine, under an illegal configuration
  outside `CFGERR`, names a bit outside it. No state satisfying `State.Inv` raises it. Safe (log 10). -/
  | noSuchByte (byteIndex : Nat)
  deriving DecidableEq, Repr

/-- Why an instruction has no meaning. -/
inductive Refusal where
  /-- The instruction has no meaning in this model yet; raised by `exec`'s arm alone, and by no arm now. Safe. -/
  | notModelled (mnemonic : String)
  deriving DecidableEq, Repr

/-- The outcome of one step of this machine. -/
abbrev Outcome := Host.Outcome

/-- The error codes of R200. -/
inductive ErrorCode where
  /-- 1, `ILLEGAL`. -/
  | illegal
  /-- 2, `RANGE`. -/
  | range
  /-- 3, `CONFIG`. -/
  | config
  deriving DecidableEq, Repr

/-- The flush FSM's state (R27). -/
inductive Fsm where
  /-- `IDLE`: no flush in progress. -/
  | idle
  /-- `OPEN`: the serial session is being opened. -/
  | openSession
  /-- `LATCH_LO`: the latch is being driven low. -/
  | latchLo
  /-- `SHIFT`: a bit is being transmitted. -/
  | shift
  /-- `LATCH_HI`: the latch is being driven high. -/
  | latchHi
  /-- `CLOSE`: the session is being closed. -/
  | close
  /-- `CFGERR`: the configuration is illegal. -/
  | cfgErr
  deriving DecidableEq, Repr

/-- What the host presents on the input ports at one block step (R36). -/
structure PortSample where
  /-- `rst`. -/
  rst : Bool
  /-- `cmd_valid`. -/
  cmdValid : Bool
  /-- `cmd_data`. -/
  cmdData : CmdWord
  deriving DecidableEq, Repr

/-- The framebuffer's contents (R24): byte index and byte, indices strictly rising, no byte 0x00 listed; an
unlisted byte reads 0x00, its value after reset (R220). -/
abbrev Memory := List Host.Cell

/-- The complete state (R22), the ports (R36), the trace (R150), the environment's chain (R168). -/
structure State where
  /-- `cfg`, fixed by the build (R23). -/
  cfg : Config
  /-- `fb`, the framebuffer (R24). -/
  fb : Memory
  /-- `rot`, the rotation register (R25). -/
  rot : Rotation
  /-- `aux`, the aux-clock enable, which is also `enable_out` (R26, R32). -/
  aux : Bool
  /-- `fsm`, the flush FSM's state (R27). -/
  fsm : Fsm
  /-- `cur_i`, the byte being sent (R28). -/
  curI : BitVec 16
  /-- `cur_j`, the bit being sent (R28). -/
  curJ : BitVec 3
  /-- `session`, the serial session is open (R29). -/
  session : Bool
  /-- `latch`, the latch line (R30). -/
  latch : Bool
  /-- `sck`, the serial clock line (R31). -/
  sck : Bool
  /-- `sdo`, the serial data line (R31, log 5, log 11). -/
  sdo : Bool
  /-- `fault`, the fault record (R33). -/
  fault : Option ErrorCode
  /-- The response port: `some w` is `rsp_valid` = 1 with `rsp_data` = `w` (R36, R86, log 7). -/
  rsp : Option RspWord
  /-- What the host presents, one sample for each block step to come (R36, R84, log 3). -/
  inputs : List PortSample
  /-- The events emitted so far, in step order (R150, log 4). -/
  trace : List Event
  /-- The external chain, environment state (R37, R168). -/
  env : Env
  /-- The MODEL's own counter: how many free values have been drawn (log 5). -/
  freeCount : Nat
  deriving DecidableEq, Repr

/-- The machine right after the first reset of a build with configuration `c`, and nothing presented: the values
of R22 and R220. -/
def State.powerOn (c : Config) : State where
  cfg := c
  fb := []
  rot := .deg0
  aux := c.auxReset
  fsm := if c.legal then .idle else .cfgErr
  curI := 0
  curJ := 0
  session := false
  latch := false
  sck := false
  sdo := Config.freeSdo 0
  fault := if c.legal then none else some .config
  rsp := none
  inputs := []
  trace := []
  env := powerUpEnv c.bitCount
  freeCount := 1

/-- The machine right after reset, built for one 29-pixel panel (R220, log 1). -/
def State.reset : State := State.powerOn Config.singlePanel29

end Sys2Proof.Machine
end

