-- ==== Sys2Proof/Machine/Ops.lean ====
section
/-! DEFINITION. The named operations of R12 (00_scope.md): framebuffer bytes and bits, events, responses, raising
an error (R201, 60_exceptions.md), accepting a command (R84, 30_encoding.md), resetting (R220). -/

namespace Sys2Proof.Machine

/-! ### The framebuffer as a list of cells -/

/-- The form every framebuffer has: indices strictly rising, no byte 0x00 listed. -/
abbrev Memory.wf (m : Memory) : Prop :=
  m.Pairwise (fun p q => p.1 < q.1) ∧ ∀ p ∈ m, p.2 ≠ 0

/-- What an unlisted byte reads as: its value after reset (R24, R220). -/
def unlistedByte : Byte := 0x00

/-- `fb[b]` (R12). -/
def Memory.read : Memory → Nat → Byte
  | [], _ => unlistedByte
  | (a, v) :: rest, b => if a = b then v else Memory.read rest b

/-- A listed byte, or none where it is the unlisted one. -/
def listed (b : Nat) (v : Byte) : Memory := if v = unlistedByte then [] else [(b, v)]

/-- `fb[b] <- v` (R12). -/
def Memory.write : Memory → Nat → Byte → Memory
  | [], b, v => listed b v
  | (a, u) :: rest, b, v =>
    if b < a then listed b v ++ (a, u) :: rest
    else if a = b then listed b v ++ rest
    else (a, u) :: Memory.write rest b v

/-- The framebuffer whose byte `b`, for each `b < n`, is `f b`. -/
def Memory.tabulate (n : Nat) (f : Nat → Byte) : Memory :=
  (List.range n).flatMap (fun b => listed b (f b))

/-- `FbBit(k)`: bit `k & 7` of byte `k >> 3` (R12, R51). -/
def Memory.bit (m : Memory) (k : Nat) : Bool := (m.read (k / 8)).getLsbD (k % 8)

/-- One bit of a byte replaced: `(v & ~(1 << j)) | (b << j)` (R12). -/
def replaceBit (v : Byte) (j : Nat) (b : Bool) : Byte :=
  (v &&& ~~~(1#8 <<< j)) ||| ((BitVec.ofBool b).setWidth 8 <<< j)

/-- `SetFbBit(k, b)` (R12). -/
def Memory.setBit (m : Memory) (k : Nat) (b : Bool) : Memory :=
  m.write (k / 8) (replaceBit (m.read (k / 8)) (k % 8) b)

/-! ### Events and responses -/

/-- `emit(e)`: the event joins the trace and the environment reacts to it (R12, R150, R168). -/
def emit (e : Event) (s : State) : State :=
  { s with trace := s.trace ++ [e], env := s.env.react e }

/-- Status `OK` (R200). -/
def statusOk : BitVec 4 := 0

/-- The status of an error (R200). -/
def ErrorCode.status : ErrorCode → BitVec 4
  | .illegal => 1
  | .range => 2
  | .config => 3

/-- The response word: `value` in bits 31..16, 0 in bits 15..4, `status` in bits 3..0 (R85). -/
def rspWord (status : BitVec 4) (value : BitVec 16) : RspWord := value ++ 0#12 ++ status

/-- `respond(status, value)`: the command's single response (R12, R86). -/
def respond (status : BitVec 4) (value : BitVec 16) (s : State) : State :=
  emit (.rsp (rspWord status value)) { s with rsp := some (rspWord status value) }

/-- `raise Fault(code)`: the block's one way of taking an error. The first code is kept, the response carries this
one, nothing else changes (R201). There is no return from it: only a reset clears the record (R209). -/
def raise (code : ErrorCode) (s : State) : State :=
  respond code.status 0 { s with fault := some (s.fault.getD code) }

/-! ### Accepting a command -/

/-- A command presented in the state `s`, whose effect in `IDLE` is `effect`. In `CFGERR` it is accepted and
answered CONFIG (R203, first in the priority of R206); while the flush FSM runs it is held, without effect
(R84, log 8). -/
def accepting (s : State) (effect : Outcome State Fault Refusal) : Outcome State Fault Refusal :=
  match s.fsm with
  | .idle => effect
  | .cfgErr => .next (raise .config s)
  | .openSession => .next s
  | .latchLo => .next s
  | .shift => .next s
  | .latchHi => .next s
  | .close => .next s

/-- A word that decodes to no command, presented in the state `s` (R74, R75, R202, R206). -/
def acceptIllegal (s : State) : Outcome State Fault Refusal := accepting s (.next (raise .illegal s))

/-- The block step takes its port sample: the response of the step before is no longer presented (R86, R87), and
the host goes on to its next sample (log 3). -/
def takeSample (s : State) : State := { s with rsp := none, inputs := s.inputs.tail }

/-- What the host presents now; nothing when its samples have run out (R234). -/
def presented (s : State) : PortSample :=
  s.inputs.headD { rst := false, cmdValid := false, cmdData := 0 }

/-! ### Reset -/

/-- The aux-clock enable takes its reset value, with an event if it changes (R220). -/
def resetAux (s : State) : State :=
  if s.aux = s.cfg.auxReset then s
  else emit (.enableOut s.cfg.auxReset) { s with aux := s.cfg.auxReset }

/-- A reset (R220, R221): every element of the block at its reset value, `sdo` at a free value (log 5), a response
not yet produced discarded, `cfg` and the chain's cells untouched. -/
def resetBlock (s : State) : State :=
  emit .reset
    { resetAux s with
      fb := []
      rot := .deg0
      curI := 0
      curJ := 0
      session := false
      latch := false
      sck := false
      sdo := Config.freeSdo s.freeCount
      freeCount := s.freeCount + 1
      fsm := if s.cfg.legal then .idle else .cfgErr
      fault := if s.cfg.legal then none else some .config
      rsp := none }

end Sys2Proof.Machine
end

