-- ==== Sys2Proof/Machine/ClockEnable.lean ====
section
/-! DEFINITION. AUXCLK (R180, 43_clock_enable.md). -/

namespace Sys2Proof.Machine

/-- The aux-clock enable takes a value, with an `EnableOut` event if it changes (R180). -/
def setAux (b : Bool) (s : State) : State :=
  if s.aux = b then s else emit (.enableOut b) { s with aux := b }

/-- AUXCLK (R180). -/
def execAuxClk (b : Bool) (s : State) : Outcome State Fault Refusal :=
  accepting s (.next (respond statusOk 0 (setAux b s)))

end Sys2Proof.Machine
end

