-- ==== Sys2Proof/Machine/Addressing.lean ====
section
/-! DEFINITION. The Addressing Engine (R100 to R109, 40_addressing.md), over the integers (R11, 00_scope.md). -/

namespace Sys2Proof.Machine

/-- `Wr`: the width the host sees (R101). -/
def rotatedWidth (c : Config) : Rotation → Nat
  | .deg0 => c.width
  | .deg90 => c.height
  | .deg180 => c.width
  | .deg270 => c.height

/-- `Hr`: the height the host sees (R101). -/
def rotatedHeight (c : Config) : Rotation → Nat
  | .deg0 => c.height
  | .deg90 => c.width
  | .deg180 => c.height
  | .deg270 => c.width

/-- Step 0: the coordinate lies on the host's surface (R102). -/
def inBounds (c : Config) (r : Rotation) (x y : Int) : Bool :=
  decide (0 ≤ x ∧ 0 ≤ y ∧ x < rotatedWidth c r ∧ y < rotatedHeight c r)

/-- The rotation transforms of a surface of width `w` and height `h` (R103). -/
def transform (w h : Int) : Rotation → Int → Int → Int × Int
  | .deg0, x, y => (x, y)
  | .deg90, x, y => (w - y - 1, x)
  | .deg180, x, y => (w - x - 1, h - y - 1)
  | .deg270, x, y => (y, h - x - 1)

/-- Step 1: the physical coordinate, by the physical `W` and `H` (R103). -/
def rotate (c : Config) (r : Rotation) (x y : Int) : Int × Int := transform c.width c.height r x y

/-- Step 2, the row within its half (R104). -/
def halfRow (yp : Int) : Int := if 12 ≤ yp then 23 - yp else yp

/-- Step 2, the column, mirrored in the bottom half (R104). -/
def halfColumn (c : Config) (xp yp : Int) : Int := if 12 ≤ yp then c.width - 1 - xp else xp

/-- Step 2, the offset of the half, in bits (R104). -/
def halfOffset (c : Config) (yp : Int) : Int := if 12 ≤ yp then c.halfBits else 0

/-- Step 3: the offset of the panel region and its two leading guard bits (R105). -/
def regionOffset (c : Config) (xh : Int) : Int := xh / c.pw * c.rph * 40 + 2

/-- Steps 4 and 5: the offset of the panel-local column, a guard nibble for every three (R106, R107). -/
def columnOffset (c : Config) (xh : Int) : Int := xh % c.pw / 3 * 4 + xh % c.pw * 12

/-- Step 6: the row's slot, V-shaped (R108). -/
def rowSlot (yh : Int) : Int := if yh ≤ 5 then 6 + yh else 11 - yh

/-- The bit index of a physical coordinate: steps 2 to 7 (R104 to R109). -/
def physicalBitIndex (c : Config) (xp yp : Int) : Int :=
  halfOffset c yp + regionOffset c (halfColumn c xp yp) + columnOffset c (halfColumn c xp yp) + rowSlot (halfRow yp)

/-- `bitIndex(x, y, rot)`: none is `OOB` (R100). -/
def bitIndex (c : Config) (r : Rotation) (x y : Int) : Option Nat :=
  if inBounds c r x y then
    some (physicalBitIndex c (rotate c r x y).1 (rotate c r x y).2).toNat
  else none

end Sys2Proof.Machine
end

