-- ==== Sys2Proof/Machine/Operands.lean ====
section
/-! DEFINITION. The framebuffer bit a command's operands name: a coordinate through the Addressing Engine (R110,
R111, 40_addressing.md), a byte index and bit offset directly (R133 to R135, 41_framebuffer.md). -/

namespace Sys2Proof.Machine

/-- The bit a coordinate names under the current rotation, none out of bounds (R110, R111). -/
def pixelTarget (s : State) (x y : Int) : Option Nat := bitIndex s.cfg s.rot x y

/-- The bit a byte index and bit offset name, none outside the framebuffer (R133, R134, R135). -/
def bitTarget (s : State) (byteIndex bitOffset : Nat) : Option Nat :=
  if byteIndex < s.cfg.byteCount then some (8 * byteIndex + bitOffset) else none

end Sys2Proof.Machine
end

