-- ==== Sys2Proof/Machine/Framebuffer.lean ====
section
/-! DEFINITION. FILL, SETBIT, GETBIT (R130 to R135, 41_framebuffer.md). -/

namespace Sys2Proof.Machine

/-- `PAT[b mod 5]`: the opaque fill's byte `b` (R130). -/
def patternByte (b : Nat) : Byte :=
  match b % 5 with
  | 0 => 0xFC
  | 4 => 0x3F
  | _ => 0xFF

/-- The byte a fill stores at index `b` (R130, R132). -/
def fillByte (opaqueFill : Bool) (b : Nat) : Byte := if opaqueFill then patternByte b else 0x00

/-- FILL: every byte of the framebuffer in one step (R130). -/
def execFill (b : Bool) (s : State) : Outcome State Fault Refusal :=
  accepting s (.next (respond statusOk 0 { s with fb := Memory.tabulate s.cfg.byteCount (fillByte b) }))

/-- SETBIT: one bit by byte index and bit offset; RANGE outside the framebuffer (R133, R134). -/
def execSetBit (byteIndex bitOffset : Nat) (b : Bool) (s : State) : Outcome State Fault Refusal :=
  accepting s <|
    match bitTarget s byteIndex bitOffset with
    | none => .next (raise .range s)
    | some k => .next (respond statusOk 0 { s with fb := s.fb.setBit k b })

/-- GETBIT: reads one bit; RANGE outside the framebuffer (R135, R134). -/
def execGetBit (byteIndex bitOffset : Nat) (s : State) : Outcome State Fault Refusal :=
  accepting s <|
    match bitTarget s byteIndex bitOffset with
    | none => .next (raise .range s)
    | some k => .next (respond statusOk ((BitVec.ofBool (s.fb.bit k)).setWidth 16) s)

end Sys2Proof.Machine
end

