-- ==== Sys2Proof/Machine/Pixel.lean ====
section
/-! DEFINITION. SETPIXEL, GETPIXEL, SETROT, GETWIDTH, GETHEIGHT (R110 to R115, 40_addressing.md). -/

namespace Sys2Proof.Machine

/-- SETPIXEL: the one bit `bitIndex(x, y, rot)` takes the state; an out-of-bounds coordinate is a no-op (R110). -/
def execSetPixel (x y : Int) (b : Bool) (s : State) : Outcome State Fault Refusal :=
  accepting s <|
    match pixelTarget s x y with
    | none => .next (respond statusOk 0 s)
    | some k =>
      if k / 8 < s.cfg.byteCount then .next (respond statusOk 0 { s with fb := s.fb.setBit k b })
      else .fault (.noSuchByte (k / 8))

/-- The value of a GETPIXEL that is in bounds: `0b10 | FbBit(k)` (R111). -/
def pixelValue (b : Bool) : BitVec 16 := 0b10#16 ||| (BitVec.ofBool b).setWidth 16

/-- GETPIXEL: in bounds in bit 1, the pixel's state in bit 0; 0 when out of bounds (R111). -/
def execGetPixel (x y : Int) (s : State) : Outcome State Fault Refusal :=
  accepting s <|
    match pixelTarget s x y with
    | none => .next (respond statusOk 0 s)
    | some k =>
      if k / 8 < s.cfg.byteCount then .next (respond statusOk (pixelValue (s.fb.bit k)) s)
      else .fault (.noSuchByte (k / 8))

/-- SETROT (R113). -/
def execSetRot (r : Rotation) (s : State) : Outcome State Fault Refusal :=
  accepting s (.next (respond statusOk 0 { s with rot := r }))

/-- GETWIDTH: `Wr` under the current rotation (R114). -/
def execGetWidth (s : State) : Outcome State Fault Refusal :=
  accepting s (.next (respond statusOk (BitVec.ofNat 16 (rotatedWidth s.cfg s.rot)) s))

/-- GETHEIGHT: `Hr` under the current rotation (R115). -/
def execGetHeight (s : State) : Outcome State Fault Refusal :=
  accepting s (.next (respond statusOk (BitVec.ofNat 16 (rotatedHeight s.cfg s.rot)) s))

end Sys2Proof.Machine
end

