-- ==== Sys2Proof/Machine/Transmission.lean ====
section
/-! DEFINITION. FLUSH and the steps of the flush FSM (R151 to R158, 42_transmission.md). -/

namespace Sys2Proof.Machine

/-- FLUSH, the accepting step: the FSM starts, the response comes at its last step (R151, R86). -/
def execFlush (s : State) : Outcome State Fault Refusal :=
  accepting s (.next { s with fsm := .openSession })

/-- The `OPEN` step (R153). -/
def stepOpen (s : State) : State :=
  emit .sessionOpen { s with session := true, fsm := .latchLo }

/-- The `LATCH_LO` step: latch low, cursor at the last byte's top bit (R154). -/
def stepLatchLo (s : State) : State :=
  emit (.latch false)
    { s with latch := false, curI := BitVec.ofNat 16 (s.cfg.byteCount - 1), curJ := 7, fsm := .shift }

/-- The cursor's advance at a `SHIFT` step; after the last bit the FSM leaves `SHIFT` (R156). -/
def advanceCursor (s : State) : State :=
  if s.curJ ≠ 0 then { s with curJ := s.curJ - 1 }
  else if s.curI ≠ 0 then { s with curI := s.curI - 1, curJ := 7 }
  else { s with fsm := .latchHi }

/-- The bit index the cursor points at (R28, R51). -/
def State.cursor (s : State) : Nat := 8 * s.curI.toNat + s.curJ.toNat

/-- The `SHIFT` step: one bit goes out, then the cursor advances (R155, R156). The clock pulse, `sck` high and low
again, happens within the step and shows as the `Bit` event (log 11). -/
def stepShift (s : State) : Outcome State Fault Refusal :=
  if s.curI.toNat < s.cfg.byteCount then
    .next (advanceCursor (emit (.bit (s.fb.bit s.cursor)) { s with sdo := s.fb.bit s.cursor, sck := false }))
  else .fault (.noSuchByte s.curI.toNat)

/-- The `LATCH_HI` step: the rising edge that presents the frame (R157). -/
def stepLatchHi (s : State) : State :=
  emit (.latch true) { s with latch := true, fsm := .close }

/-- The `CLOSE` step: the session closes and FLUSH responds (R158). -/
def stepClose (s : State) : State :=
  respond statusOk 0 (emit .sessionClose { s with session := false, fsm := .idle })

/-- One step of the flush FSM; in `IDLE` and `CFGERR` it has none to take (R152). -/
def fsmStep (s : State) : Outcome State Fault Refusal :=
  match s.fsm with
  | .idle => .next s
  | .openSession => .next (stepOpen s)
  | .latchLo => .next (stepLatchLo s)
  | .shift => stepShift s
  | .latchHi => .next (stepLatchHi s)
  | .close => .next (stepClose s)
  | .cfgErr => .next s

end Sys2Proof.Machine
end

