-- ==== Sys2Proof/Machine/Dispatch.lean ====
section
/-! DEFINITION. Which meaning each command has, one arm per row of the opcode map (R73, 30_encoding.md). -/

namespace Sys2Proof.Machine

/-- A presented command in the state `s`: accepted with its effect, answered CONFIG, or held (R84, R203). -/
def exec (i : Instr) (s : State) : Host.Outcome State Fault Refusal :=
  match i with
  | .setPixel x y b => Sys2Proof.Machine.execSetPixel x y b s
  | .getPixel x y => Sys2Proof.Machine.execGetPixel x y s
  | .fill b => Sys2Proof.Machine.execFill b s
  | .setBit byteIndex bitOffset b => Sys2Proof.Machine.execSetBit byteIndex bitOffset b s
  | .getBit byteIndex bitOffset => Sys2Proof.Machine.execGetBit byteIndex bitOffset s
  | .setRot r => Sys2Proof.Machine.execSetRot r s
  | .getWidth => Sys2Proof.Machine.execGetWidth s
  | .getHeight => Sys2Proof.Machine.execGetHeight s
  | .flush => Sys2Proof.Machine.execFlush s
  | .auxClk b => Sys2Proof.Machine.execAuxClk b s

end Sys2Proof.Machine
end

