-- ==== Sys2Proof/Machine/Flags.lean ====
section
/-! DEFINITION. The block's derived outputs (R32 to R34, R36, 10_state.md). It has no condition codes. -/

namespace Sys2Proof.Machine

/-- `busy`: a flush is in progress (R34). -/
def State.busy (s : State) : Bool :=
  match s.fsm with
  | .idle => false
  | .openSession => true
  | .latchLo => true
  | .shift => true
  | .latchHi => true
  | .close => true
  | .cfgErr => false

/-- `cmd_ready`: a presented command is accepted (R34). -/
def State.cmdReady (s : State) : Bool :=
  match s.fsm with
  | .idle => true
  | .openSession => false
  | .latchLo => false
  | .shift => false
  | .latchHi => false
  | .close => false
  | .cfgErr => true

/-- The `fault` line (R33). -/
def State.faultLine (s : State) : Bool := s.fault.isSome

/-- The `enable_out` line, equal to `aux` at all times (R32). -/
def State.enableOut (s : State) : Bool := s.aux

/-- The `rsp_valid` line (R36). -/
def State.rspValid (s : State) : Bool := s.rsp.isSome

end Sys2Proof.Machine
end

