-- ==== Sys2Proof/Machine/Step.lean ====
section
/-! DEFINITION. One block step (R13, 00_scope.md): a reset, a step of the flush FSM, a command, or nothing. -/

namespace Sys2Proof.Machine

/-- The step at which a command word is accepted (R84, R76, R202). -/
def commandStep (w : CmdWord) (s : State) : Host.Outcome State Fault Refusal :=
  match decode w with
  | .ok i => exec i s
  | .error _ => acceptIllegal s

/-- One block step. The port sample is taken; a reset replaces whatever else the step would do (R220, R222);
otherwise the flush FSM steps while it is busy, and a presented command waits (R84, R230); otherwise the presented
command is accepted; a host that presents nothing leaves the block as it is (R234). -/
def step (s : State) : Host.Outcome State Fault Refusal :=
  if (presented s).rst then .next (resetBlock (takeSample s))
  else if s.busy then fsmStep (takeSample s)
  else if (presented s).cmdValid then commandStep (presented s).cmdData (takeSample s)
  else .next (takeSample s)

/-- The host presents, at the next step, the command whose table bits are `w`; a flush in progress is taken as
over, since no command is accepted before it is (log 2). -/
def State.withFetchWord (s : State) (nbits w : Nat) : State :=
  { s with
    inputs := { rst := false, cmdValid := true, cmdData := BitVec.ofNat 64 (w % 2 ^ nbits) } :: s.inputs.tail
    fsm := if s.busy then .idle else s.fsm }

end Sys2Proof.Machine
end

