-- ==== Sys2Proof/Machine/Assembler.lean ====
section
/-! DEFINITION. The assembler's text form (R78, 30_encoding.md) and its pseudo-instructions (R79): one line of
characters to a command. It has no part in the block's behaviour (D28). -/

namespace Sys2Proof.Machine

/-- Why a line is no command: an assembly error, not an encoding (R78). -/
inductive AsmError where
  /-- The line's first word is no mnemonic. -/
  | unknownMnemonic
  /-- The operands are not those of the mnemonic, or not integers. -/
  | badOperands
  /-- An operand lies outside its range. -/
  | outOfRange
  deriving DecidableEq, Repr

/-- A mnemonic or a pseudo-instruction (R78, R79). -/
inductive AsmOp where
  /-- `SETPIXEL x, y, s`. -/
  | setPixel
  /-- `GETPIXEL x, y`. -/
  | getPixel
  /-- `FILL s`. -/
  | fill
  /-- `SETBIT byteIndex, bitOffset, s`. -/
  | setBit
  /-- `GETBIT byteIndex, bitOffset`. -/
  | getBit
  /-- `SETROT r`. -/
  | setRot
  /-- `GETWIDTH`. -/
  | getWidth
  /-- `GETHEIGHT`. -/
  | getHeight
  /-- `FLUSH`. -/
  | flush
  /-- `AUXCLK s`. -/
  | auxClk
  /-- `CLEAR`, which is `FILL 0`. -/
  | clear
  /-- `FILLON`, which is `FILL 1`. -/
  | fillOn
  /-- `PIXON x, y`, which is `SETPIXEL x, y, 1`. -/
  | pixOn
  /-- `PIXOFF x, y`, which is `SETPIXEL x, y, 0`. -/
  | pixOff
  /-- `AUXON`, which is `AUXCLK 1`. -/
  | auxOn
  /-- `AUXOFF`, which is `AUXCLK 0`. -/
  | auxOff
  deriving DecidableEq, Repr

/-- An operand as it is written (R78). -/
inductive AsmArg where
  /-- An integer. -/
  | number (v : Int)
  /-- `R0`, `R90`, `R180` or `R270`. -/
  | rotationName (r : Rotation)
  deriving DecidableEq, Repr

/-- How each is written (R78, R79). -/
def asmNames : List (List Char × AsmOp) := [
  ("SETPIXEL".toList, .setPixel), ("GETPIXEL".toList, .getPixel), ("FILL".toList, .fill),
  ("SETBIT".toList, .setBit), ("GETBIT".toList, .getBit), ("SETROT".toList, .setRot),
  ("GETWIDTH".toList, .getWidth), ("GETHEIGHT".toList, .getHeight), ("FLUSH".toList, .flush),
  ("AUXCLK".toList, .auxClk), ("CLEAR".toList, .clear), ("FILLON".toList, .fillOn),
  ("PIXON".toList, .pixOn), ("PIXOFF".toList, .pixOff), ("AUXON".toList, .auxOn), ("AUXOFF".toList, .auxOff)]

/-- A blank between words. -/
def blankChar (c : Char) : Bool := c == ' ' || c == '\t'

/-- Characters without the blanks around them. -/
def trimmed (cs : List Char) : List Char :=
  ((cs.dropWhile blankChar).reverse.dropWhile blankChar).reverse

/-- Characters cut at every comma. -/
def atCommas (cs : List Char) : List (List Char) :=
  cs.foldr (fun c parts => if c == ',' then [] :: parts else (c :: parts.headD []) :: parts.tail) [[]]

/-- The value of a digit, up to hexadecimal. -/
def digitValue (c : Char) : Option Nat :=
  if '0'.toNat ≤ c.toNat ∧ c.toNat ≤ '9'.toNat then some (c.toNat - '0'.toNat)
  else if 'a'.toNat ≤ c.toNat ∧ c.toNat ≤ 'f'.toNat then some (c.toNat - 'a'.toNat + 10)
  else if 'A'.toNat ≤ c.toNat ∧ c.toNat ≤ 'F'.toNat then some (c.toNat - 'A'.toNat + 10)
  else none

/-- The number that digits write in a base, at least one digit. -/
def digitsValue (base : Nat) (cs : List Char) : Option Nat :=
  if cs.isEmpty then none
  else cs.foldl (fun acc c => acc.bind fun n => (digitValue c).bind fun d =>
    if d < base then some (n * base + d) else none) (some 0)

/-- A decimal or `0x` hex number without a sign (R78). -/
def parseNat : List Char → Option Nat
  | '0' :: 'x' :: rest => digitsValue 16 rest
  | cs => digitsValue 10 cs

/-- A decimal or `0x` hex integer (R78). -/
def parseInt : List Char → Option Int
  | '-' :: rest => (parseNat rest).map fun n => -(n : Int)
  | cs => (parseNat cs).map fun n => (n : Int)

/-- An operand: an integer, or a rotation by name (R78). -/
def parseOperand (cs : List Char) : Option AsmArg :=
  if cs = "R0".toList then some (.rotationName .deg0)
  else if cs = "R90".toList then some (.rotationName .deg90)
  else if cs = "R180".toList then some (.rotationName .deg180)
  else if cs = "R270".toList then some (.rotationName .deg270)
  else (parseInt cs).map .number

/-- A state operand, 0 or 1 (R78). -/
def stateOperand (v : Int) : Except AsmError Bool :=
  if v = 0 then .ok false else if v = 1 then .ok true else .error .outOfRange

/-- A rotation operand, 0 to 3 (R78). -/
def rotationOperand (v : Int) : Except AsmError Rotation :=
  if v = 0 then .ok .deg0
  else if v = 1 then .ok .deg90
  else if v = 2 then .ok .deg180
  else if v = 3 then .ok .deg270
  else .error .outOfRange

/-- A command whose operands are checked for their ranges (R78). -/
def ranged (i : Instr) : Except AsmError Instr := if i.wf then .ok i else .error .outOfRange

/-- A non-negative operand. -/
def natOperand (v : Int) : Except AsmError Nat := if 0 ≤ v then .ok v.toNat else .error .outOfRange

/-- The command of a mnemonic or pseudo-instruction with its operands (R78, R79). -/
def assemble (op : AsmOp) (args : List AsmArg) : Except AsmError Instr :=
  match op, args with
  | .setPixel, [.number x, .number y, .number b] => do ranged (.setPixel x y (← stateOperand b))
  | .getPixel, [.number x, .number y] => ranged (.getPixel x y)
  | .fill, [.number b] => do ranged (.fill (← stateOperand b))
  | .setBit, [.number byteIndex, .number bitOffset, .number b] => do
    ranged (.setBit (← natOperand byteIndex) (← natOperand bitOffset) (← stateOperand b))
  | .getBit, [.number byteIndex, .number bitOffset] => do
    ranged (.getBit (← natOperand byteIndex) (← natOperand bitOffset))
  | .setRot, [.number r] => do ranged (.setRot (← rotationOperand r))
  | .setRot, [.rotationName r] => ranged (.setRot r)
  | .getWidth, [] => ranged .getWidth
  | .getHeight, [] => ranged .getHeight
  | .flush, [] => ranged .flush
  | .auxClk, [.number b] => do ranged (.auxClk (← stateOperand b))
  | .clear, [] => ranged (.fill false)
  | .fillOn, [] => ranged (.fill true)
  | .pixOn, [.number x, .number y] => ranged (.setPixel x y true)
  | .pixOff, [.number x, .number y] => ranged (.setPixel x y false)
  | .auxOn, [] => ranged (.auxClk true)
  | .auxOff, [] => ranged (.auxClk false)
  | _, _ => .error .badOperands

/-- A line's operands, cut at commas; none where there is nothing but blanks. -/
def operandTexts (cs : List Char) : List (List Char) :=
  if (trimmed cs).isEmpty then [] else (atCommas cs).map trimmed

/-- One line: a mnemonic, its operands, and a comment after a semicolon (R78). -/
def assembleLine (line : List Char) : Except AsmError Instr :=
  let text := trimmed (line.takeWhile (· != ';'))
  let name := text.takeWhile (!blankChar ·)
  match asmNames.find? (fun entry => entry.1 == name) with
  | none => .error .unknownMnemonic
  | some entry =>
    match (operandTexts (text.drop name.length)).mapM parseOperand with
    | none => .error .badOperands
    | some args => assemble entry.2 args

end Sys2Proof.Machine
end

