-- ==== Sys2Proof/Machine/Layout.lean ====
section
/-! DEFINITION. What each bit of the framebuffer is (R57 to R59, 20_memory.md) and which pixel it shows (R117,
40_addressing.md; R170, 42_transmission.md). -/

namespace Sys2Proof.Machine

/-- The offset of bit `k` in its 40-bit register (R57). -/
def registerOffset (k : Nat) : Nat := k % 40

/-- Bit `k` is a guard bit: offset 0, 1, 38 or 39 of its register (R58). -/
def guardBit (k : Nat) : Bool := decide (registerOffset k < 2 ∨ 38 ≤ registerOffset k)

/-- The half of bit `k`: 0 top, 1 bottom (R57). -/
def halfOf (c : Config) (k : Nat) : Nat := k / c.halfBits

/-- The panel region of bit `k` within its half (R57). -/
def regionOf (c : Config) (k : Nat) : Nat := k % c.halfBits / (c.rph * 40)

/-- The register of bit `k` within its region (R57). -/
def registerOf (c : Config) (k : Nat) : Nat := k % (c.rph * 40) / 40

/-- The local column of bit `k`, for a bit that is no guard bit (R59). -/
def localColumnOf (c : Config) (k : Nat) : Nat := 3 * registerOf c k + (registerOffset k - 2) / 12

/-- The row slot of bit `k`, for a bit that is no guard bit (R59). -/
def rowSlotOf (k : Nat) : Nat := (registerOffset k - 2) % 12

/-- Bit `k` is a pixel bit (R59). -/
def pixelBit (c : Config) (k : Nat) : Bool :=
  decide (k < c.bitCount) && !guardBit k && decide (localColumnOf c k < c.pw)

/-- Bit `k` is a blank-column bit (R59). -/
def blankColumnBit (c : Config) (k : Nat) : Bool :=
  decide (k < c.bitCount) && !guardBit k && decide (c.pw ≤ localColumnOf c k)

/-- The bit index of a slot, from its half, region, register, column slot and row slot (R59). -/
def slotIndex (c : Config) (h q r col t : Nat) : Nat :=
  h * c.halfBits + q * c.rph * 40 + 40 * r + 2 + 12 * col + t

/-- The half-row of a row slot (R117). -/
def halfRowOfSlot (t : Nat) : Nat := if 6 ≤ t then t - 6 else 11 - t

/-- The physical coordinate that pixel bit `k` comes from (R117). -/
def pixelOf (c : Config) (k : Nat) : Int × Int :=
  let xh : Int := (regionOf c k * c.pw + localColumnOf c k : Nat)
  let yh : Int := (halfRowOfSlot (rowSlotOf k) : Nat)
  if halfOf c k = 0 then (xh, yh) else (c.width - 1 - xh, 23 - yh)

/-- What the panel shows at a physical pixel, none off the surface (R170). -/
def shownPixel (s : State) (xp yp : Int) : Option Bool :=
  match bitIndex s.cfg .deg0 xp yp with
  | some k => s.env.visible[k]?
  | none => none

end Sys2Proof.Machine
end

