-- ==== Sys2Proof/Safety.lean ====
section
/-! DEFINITION. What holds of the block in every run: the invariant of its reachable states, and an outcome that
goes on. -/

namespace Sys2Proof.Machine

/-- The serial session is open: from the `OPEN` step to the `CLOSE` step (R29). -/
def Fsm.inSession : Fsm → Bool
  | .idle => false
  | .openSession => false
  | .latchLo => true
  | .shift => true
  | .latchHi => true
  | .close => true
  | .cfgErr => false

/-- The outcome is a next state: neither a fault nor a refusal (R235, I12). -/
abbrev goesOn (o : Outcome State Fault Refusal) : Prop := ∃ t, o = .next t

/-- What every reachable state satisfies. -/
structure State.Inv (s : State) : Prop where
  /-- The framebuffer is in its one form. -/
  fbForm : s.fb.wf
  /-- No byte outside 0 to `N` − 1 is listed (R24, R50). -/
  fbInside : ∀ p ∈ s.fb, p.1 < s.cfg.byteCount
  /-- The block is in `CFGERR` exactly under an illegal configuration (R203). -/
  cfgErrIff : s.fsm = .cfgErr ↔ s.cfg.legal = false
  /-- The fault record is `CONFIG` exactly in `CFGERR` (R203, R220). -/
  configFault : s.fault = some .config ↔ s.fsm = .cfgErr
  /-- In `CFGERR` nothing has ever been drawn, rotated or switched (R203). -/
  cfgErrQuiet : s.fsm = .cfgErr → s.fb = [] ∧ s.rot = .deg0 ∧ s.aux = s.cfg.auxReset ∧ s.latch = false
  /-- The session flag follows the FSM (R29). -/
  sessionLevel : s.session = s.fsm.inSession
  /-- The latch is low while bits are staged (R154). -/
  latchLow : s.fsm = .shift ∨ s.fsm = .latchHi → s.latch = false
  /-- The latch is high once the frame is presented (R157). -/
  latchHigh : s.fsm = .close → s.latch = true
  /-- The serial clock idles low (R31). -/
  sckLow : s.sck = false
  /-- The cursor lies inside the framebuffer while it is read (R28). -/
  cursorInside : s.fsm = .shift → s.curI.toNat < s.cfg.byteCount
  /-- The chain has one cell for each framebuffer bit (R168). -/
  chainLength : s.env.chain.length = s.cfg.bitCount
  /-- The output latches have one cell for each framebuffer bit (R168). -/
  visibleLength : s.env.visible.length = s.cfg.bitCount
  /-- The chain has seen the latch line as it is (R168). -/
  levelSeen : s.env.lvl = s.latch
  /-- The bits sent so far lie in the chain's first cells, the last one sent at cell 0 (R155, R168). -/
  staged : s.fsm = .shift → ∀ j, s.cursor + 1 + j < s.cfg.bitCount →
    s.env.chain[j]? = some (s.fb.bit (s.cursor + 1 + j))
  /-- After the last bit the chain holds the framebuffer (R169). -/
  stagedWhole : s.fsm = .latchHi → ∀ k, k < s.cfg.bitCount → s.env.chain[k]? = some (s.fb.bit k)
  /-- After the rising edge the output latches hold the framebuffer (R170). -/
  presentedWhole : s.fsm = .close → ∀ k, k < s.cfg.bitCount → s.env.visible[k]? = some (s.fb.bit k)

end Sys2Proof.Machine
end

