-- ==== Sys2Proof/Certificates/Slice0/Obligations.lean ====
section
/-! DEFINITION. The statements for the provers, in the order of the spec's files: encoding, addressing, commands,
the flush FSM, errors, reset, and what holds of every step. -/

namespace Sys2Proof.Machine

/-- The state `s` after a command's response word `w`: presented on the port and recorded in the trace (R12, R86). -/
def answered (s : State) (w : RspWord) : State := { s with rsp := some w, trace := s.trace ++ [.rsp w] }

/-- The block and its environment without the port bookkeeping, which is the model's: when a response is no longer
presented (log 7), and which samples the host has still to present (log 3). -/
def blockOf (s : State) : State := { s with rsp := none, inputs := [] }

/-- The error code recorded after `code` is raised: the first one is kept (R201). -/
def firstFault (s : State) (code : ErrorCode) : Option ErrorCode :=
  match s.fault with
  | none => some code
  | some earlier => some earlier

/-- The host presents the word of `(presented s).cmdData` as a command and no reset. -/
def commandPresented (s : State) : Prop := (presented s).rst = false ∧ (presented s).cmdValid = true

/-- A `Rsp` event. -/
def Event.isRsp : Event → Bool
  | .rsp _ => true
  | _ => false

/-- A `Bit` or `Latch` event. -/
def Event.isSerial : Event → Bool
  | .bit _ => true
  | .latch _ => true
  | _ => false

/-- An `EnableOut` event. -/
def Event.isEnableOut : Event → Bool
  | .enableOut _ => true
  | _ => false

end Sys2Proof.Machine

open Sys2Proof Sys2Proof.Machine

/-! ### Encoding (30_encoding.md) -/

/-- Every well-formed command is what its word decodes to (R72, R73, R76, R78). -/
def Obligations.DecodeOfEncode : Prop := ∀ i : Instr, i.wf = true → decode (encode i) = .ok i

/-- Every word that decodes is the word of a well-formed command: no bit of it is ignored (R72, R75, R78). -/
def Obligations.EncodeOfDecode : Prop :=
  ∀ (w : CmdWord) (i : Instr), decode w = .ok i → i.wf = true ∧ encode i = w

/-- The opcode map is spec/opcode_table.json's; a word decodes to the row whose `(w & mask) == match`, at most one
row matches, and a word that matches none is no command (R76). -/
def Obligations.DecodePicksTheMatchingRow : Prop :=
  (opTable.map fun row => (row.mnemonic, row.mask, row.pattern)) =
    [("SETPIXEL", 0xFFFF00000000FFEF, 0x1), ("GETPIXEL", 0xFFFF00000000FFFF, 0x2),
     ("FILL", 0xFFFFFFFFFFFFFFEF, 0x3), ("SETBIT", 0xFFFFFFF80000FFEF, 0x4),
     ("GETBIT", 0xFFFFFFF80000FFFF, 0x5), ("SETROT", 0xFFFFFFFFFFFFFCFF, 0x6),
     ("GETWIDTH", 0xFFFFFFFFFFFFFFFF, 0x7), ("GETHEIGHT", 0xFFFFFFFFFFFFFFFF, 0x8),
     ("FLUSH", 0xFFFFFFFFFFFFFFFF, 0x9), ("AUXCLK", 0xFFFFFFFFFFFFFFEF, 0xA)] ∧
  (∀ w : CmdWord, ∀ row ∈ opTable, w &&& row.mask = row.pattern → decode w = .ok (row.operands w)) ∧
  (∀ w : CmdWord, ∀ row ∈ opTable, ∀ row' ∈ opTable,
    w &&& row.mask = row.pattern → w &&& row'.mask = row'.pattern → row.mnemonic = row'.mnemonic) ∧
  ∀ w : CmdWord, (∀ row ∈ opTable, w &&& row.mask ≠ row.pattern) → ∃ why, decode w = .error why

/-- A presented word with opcode 0x0 or 0xB to 0xF responds ILLEGAL and changes no state but the fault record, which
keeps an earlier code (R74). -/
def Obligations.ReservedOpcodesAnswerIllegal : Prop :=
  ∀ s : State, s.fsm = .idle → commandPresented s →
    ((presented s).cmdData.extractLsb' 0 4 = 0x0#4 ∨ 0xB#4 ≤ (presented s).cmdData.extractLsb' 0 4) →
    ∃ t, step s = .next t ∧ t.rsp = some 0x00000001 ∧
      blockOf t = blockOf (answered { s with fault := firstFault s .illegal } 0x00000001)

/-- A presented word with a legal opcode and a 1 in a bit its format requires to be 0 is treated exactly as an
illegal opcode, whatever its operands (R75, R202). -/
def Obligations.MustBeZeroBitsAnswerIllegal : Prop :=
  ∀ (s : State) (row : OpRow), row ∈ opTable → s.fsm = .idle → commandPresented s →
    (presented s).cmdData.extractLsb' 0 4 = row.pattern.extractLsb' 0 4 →
    (presented s).cmdData &&& row.format.mustBeZero ≠ 0 →
    ∃ t, step s = .next t ∧ t.rsp = some 0x00000001 ∧
      blockOf t = blockOf (answered { s with fault := firstFault s .illegal } 0x00000001)

/-- Words written out from R70 to R73 decode to the commands they stand for. -/
def Obligations.SampleWordsDecode : Prop :=
  decode 0x00000017001C0001 = .ok (.setPixel 28 23 false) ∧ decode 0x00000000FFFF0011 = .ok (.setPixel (-1) 0 true) ∧
  decode 0x00000017001C0002 = .ok (.getPixel 28 23) ∧ decode 0x0000000000000013 = .ok (.fill true) ∧
  decode 0x0000000700630014 = .ok (.setBit 99 7 true) ∧ decode 0x0000000200000005 = .ok (.getBit 0 2) ∧
  decode 0x0000000000000306 = .ok (.setRot .deg270) ∧ decode 0x0000000000000009 = .ok .flush ∧
  decode 0x000000000000001A = .ok (.auxClk true)

/-- An assembled line is a command with every operand in its range, so its word decodes to it (R78). -/
def Obligations.AssembledLinesHaveWords : Prop :=
  ∀ (line : List Char) (i : Instr), assembleLine line = .ok i → i.wf = true ∧ decode (encode i) = .ok i

/-- The six pseudo-instructions expand as R79 lists them, whatever their operands are. -/
def Obligations.PseudoInstructionsExpand : Prop :=
  ∀ x y : AsmArg,
    assemble .clear [] = assemble .fill [.number 0] ∧ assemble .fillOn [] = assemble .fill [.number 1] ∧
    assemble .pixOn [x, y] = assemble .setPixel [x, y, .number 1] ∧
    assemble .pixOff [x, y] = assemble .setPixel [x, y, .number 0] ∧
    assemble .auxOn [] = assemble .auxClk [.number 1] ∧ assemble .auxOff [] = assemble .auxClk [.number 0]

/-! ### Geometry (00_scope.md) and the Addressing Engine (40_addressing.md) -/

/-- Under a legal configuration the derived quantities relate as R8 says and fit the widths of R9. -/
def Obligations.LegalGeometryFits : Prop :=
  ∀ c : Config, c.legal = true →
    0 < c.byteCount ∧ c.byteCount ≤ 63750 ∧ c.bitCount = 8 * c.byteCount ∧ c.bitCount - 1 ≤ 509999 ∧
    2 * c.halfBits = c.bitCount ∧ 40 * c.registerCount = c.bitCount ∧ c.byteCount % 5 = 0 ∧
    c.width = c.pw * c.pc ∧ c.width ≤ 9945 ∧ c.height = 24 ∧ c.pw + c.blankColumns = c.rph * 3 ∧
    (c.pw = 29 → c.blankColumns = 1) ∧ (c.pw = 39 → c.blankColumns = 3 * c.rph - 39)

/-- A coordinate is out of bounds exactly when it is negative or reaches the rotated width or height (R101, R102). -/
def Obligations.OutOfBoundsExactly : Prop :=
  ∀ (c : Config) (r : Rotation) (x y : Int),
    bitIndex c r x y = none ↔
      x < 0 ∨ y < 0 ∨
      (if r = .deg0 ∨ r = .deg180 then (c.pw : Int) * c.pc else 24) ≤ x ∨
      (if r = .deg0 ∨ r = .deg180 then 24 else (c.pw : Int) * c.pc) ≤ y

/-- Checking the bounds first is the same as transforming first and checking the result against `W` and `H`, and
every transform is one-to-one onto the physical surface (R102, R103). -/
def Obligations.CheckFirstIsTransformFirst : Prop :=
  ∀ (c : Config) (r : Rotation),
    (∀ x y : Int, inBounds c r x y = true ↔
      0 ≤ (rotate c r x y).1 ∧ (rotate c r x y).1 < (c.pw : Int) * c.pc ∧
      0 ≤ (rotate c r x y).2 ∧ (rotate c r x y).2 < 24) ∧
    ∀ xp yp : Int, ∃ x y : Int, rotate c r x y = (xp, yp) ∧ ∀ x' y' : Int, rotate c r x' y' = (xp, yp) → x' = x ∧ y' = y

/-- The 180° transform twice is the identity, and so is the 90° transform followed by the 270° transform with the
dimensions swapped (R116). -/
def Obligations.RotationRoundTrips : Prop :=
  ∀ w h x y : Int,
    transform w h .deg180 (transform w h .deg180 x y).1 (transform w h .deg180 x y).2 = (x, y) ∧
    transform h w .deg270 (transform w h .deg90 x y).1 (transform w h .deg90 x y).2 = (x, y)

/-- Under a legal configuration every bit index lies inside the framebuffer (R109 (a)). -/
def Obligations.BitIndexInsideFramebuffer : Prop :=
  ∀ (c : Config) (r : Rotation) (x y : Int) (k : Nat), c.legal = true → bitIndex c r x y = some k → k < c.bitCount

/-- Under a legal configuration and one rotation, distinct coordinates have distinct bits (R109 (b)). -/
def Obligations.BitIndexOneToOne : Prop :=
  ∀ (c : Config) (r : Rotation) (x y x' y' : Int) (k : Nat), c.legal = true →
    bitIndex c r x y = some k → bitIndex c r x' y' = some k → x = x' ∧ y = y'

/-- Under a legal configuration the bits that coordinates name are, under each rotation, exactly the pixel bits, and
so never a guard bit or a blank-column bit (R109 (c), (d)). -/
def Obligations.BitIndexProducesExactlyThePixelBits : Prop :=
  ∀ (c : Config) (r : Rotation) (k : Nat), c.legal = true →
    ((∃ x y, bitIndex c r x y = some k) ↔ pixelBit c k = true) ∧
    (pixelBit c k = true → guardBit k = false ∧ blankColumnBit c k = false)

/-- A slot of R59 is the bit its half, region, register, column slot and row slot say, a pixel bit or a blank-column
bit as its local column decides; and every bit of the framebuffer is a guard bit or a slot (R57 to R59). -/
def Obligations.SlotsAndGuardBits : Prop :=
  ∀ c : Config, c.legal = true →
    (∀ h q r col t : Nat, h < 2 → q < c.pc → r < c.rph → col < 3 → t < 12 →
      slotIndex c h q r col t < c.bitCount ∧ guardBit (slotIndex c h q r col t) = false ∧
      halfOf c (slotIndex c h q r col t) = h ∧ regionOf c (slotIndex c h q r col t) = q ∧
      registerOf c (slotIndex c h q r col t) = r ∧ localColumnOf c (slotIndex c h q r col t) = 3 * r + col ∧
      rowSlotOf (slotIndex c h q r col t) = t ∧
      pixelBit c (slotIndex c h q r col t) = decide (3 * r + col < c.pw) ∧
      blankColumnBit c (slotIndex c h q r col t) = decide (c.pw ≤ 3 * r + col)) ∧
    ∀ k : Nat, k < c.bitCount → guardBit k = false →
      ∃ h q r col t, h < 2 ∧ q < c.pc ∧ r < c.rph ∧ col < 3 ∧ t < 12 ∧ k = slotIndex c h q r col t

/-- Every pixel bit comes from exactly one physical coordinate, the one R117 computes from its slot. -/
def Obligations.InverseMapping : Prop :=
  ∀ (c : Config) (h q r col t : Nat), c.legal = true → h < 2 → q < c.pc → r < c.rph → col < 3 → t < 12 →
    3 * r + col < c.pw →
    ∀ xp yp : Int,
      bitIndex c .deg0 xp yp = some (slotIndex c h q r col t) ↔
        (xp, yp) =
          if h = 0 then
            ((q : Int) * c.pw + (3 * r + col), if 6 ≤ t then (t : Int) - 6 else 11 - t)
          else
            ((c.pw : Int) * c.pc - 1 - ((q : Int) * c.pw + (3 * r + col)),
              23 - (if 6 ≤ t then (t : Int) - 6 else 11 - t))

/-! ### Commands (40_addressing.md, 41_framebuffer.md, 43_clock_enable.md) -/

/-- SETPIXEL in bounds: the bit the Addressing Engine names takes the state, no other bit and no other byte changes,
and nothing else but the response does (R110). -/
def Obligations.SetPixelWritesOneBit : Prop :=
  ∀ (s : State) (x y : Int) (b : Bool) (k : Nat),
    s.fsm = .idle → s.cfg.legal = true → s.fb.wf → bitIndex s.cfg s.rot x y = some k →
    ∃ m : Memory, exec (.setPixel x y b) s = .next (answered { s with fb := m } 0x00000000) ∧ m.wf ∧
      (∀ j, m.bit j = if j = k then b else s.fb.bit j) ∧ ∀ a, a ≠ k / 8 → m.read a = s.fb.read a

/-- SETPIXEL out of bounds is a no-op that responds OK (R110, R205 (a)). -/
def Obligations.SetPixelOutOfBoundsIsIgnored : Prop :=
  ∀ (s : State) (x y : Int) (b : Bool), s.fsm = .idle →
    (x < 0 ∨ y < 0 ∨ (rotatedWidth s.cfg s.rot : Int) ≤ x ∨ (rotatedHeight s.cfg s.rot : Int) ≤ y) →
    exec (.setPixel x y b) s = .next (answered s 0x00000000)

/-- GETPIXEL responds `0b10` with the pixel's state, or 0 out of bounds, and changes nothing else (R111). -/
def Obligations.GetPixelReadsOneBit : Prop :=
  ∀ (s : State) (x y : Int), s.fsm = .idle → s.cfg.legal = true →
    (∀ k, bitIndex s.cfg s.rot x y = some k →
      exec (.getPixel x y) s = .next (answered s (if s.fb.bit k then 0x00030000 else 0x00020000))) ∧
    (bitIndex s.cfg s.rot x y = none → exec (.getPixel x y) s = .next (answered s 0x00000000))

/-- A GETPIXEL after a SETPIXEL of the same coordinate returns the state set, and a GETBIT after a SETBIT of the same
bit the state set (R136 (c)). -/
def Obligations.ReadAfterWriteReturnsTheState : Prop :=
  ∀ (s : State) (b : Bool), s.fsm = .idle → s.cfg.legal = true → s.fb.wf →
    (∀ (x y : Int) (k : Nat), bitIndex s.cfg s.rot x y = some k →
      ∃ t, exec (.setPixel x y b) s = .next t ∧
        exec (.getPixel x y) t = .next (answered t (if b then 0x00030000 else 0x00020000))) ∧
    ∀ byteIndex bitOffset : Nat, byteIndex < s.cfg.byteCount → bitOffset ≤ 7 →
      ∃ t, exec (.setBit byteIndex bitOffset b) s = .next t ∧
        exec (.getBit byteIndex bitOffset) t = .next (answered t (if b then 0x00010000 else 0x00000000))

/-- SETROT writes the rotation register and nothing else but the response (R113). -/
def Obligations.SetRotWritesTheRotation : Prop :=
  ∀ (s : State) (r : Rotation), s.fsm = .idle →
    exec (.setRot r) s = .next (answered { s with rot := r } 0x00000000)

/-- GETWIDTH and GETHEIGHT respond `Wr` and `Hr` in the value field, whole, and change nothing else (R114, R115). -/
def Obligations.SizeQueriesAnswerTheRotatedSize : Prop :=
  ∀ s : State, s.fsm = .idle → s.cfg.legal = true →
    ∃ wide high : RspWord,
      exec .getWidth s = .next (answered s wide) ∧ exec .getHeight s = .next (answered s high) ∧
      (wide.extractLsb' 16 16).toNat = (if s.rot = .deg0 ∨ s.rot = .deg180 then s.cfg.pw * s.cfg.pc else 24) ∧
      (high.extractLsb' 16 16).toNat = (if s.rot = .deg0 ∨ s.rot = .deg180 then 24 else s.cfg.pw * s.cfg.pc) ∧
      wide.extractLsb' 0 16 = 0 ∧ high.extractLsb' 0 16 = 0

/-- FILL writes every byte of the framebuffer, the pattern's or 0x00, and nothing else but the response (R130). -/
def Obligations.FillWritesEveryByte : Prop :=
  ∀ (s : State) (b : Bool), s.fsm = .idle →
    ∃ m : Memory, exec (.fill b) s = .next (answered { s with fb := m } 0x00000000) ∧ m.wf ∧
      (∀ a, a < s.cfg.byteCount →
        m.read a = if b then [0xFC, 0xFF, 0xFF, 0xFF, 0x3F].getD (a % 5) 0x00 else 0x00) ∧
      ((∀ p ∈ s.fb, p.1 < s.cfg.byteCount) → ∀ a, s.cfg.byteCount ≤ a → m.read a = s.fb.read a)

/-- After `FILL 1` pixel bits are 1, guard bits 0, blank-column bits 1; after `FILL 0` every bit is 0 (R131, R132). -/
def Obligations.FillByBitClass : Prop :=
  ∀ s : State, s.fsm = .idle →
    ∃ opaqueState clearState, exec (.fill true) s = .next opaqueState ∧ exec (.fill false) s = .next clearState ∧
      ∀ k, k < s.cfg.bitCount →
        (pixelBit s.cfg k = true → opaqueState.fb.bit k = true) ∧
        (guardBit k = true → opaqueState.fb.bit k = false) ∧
        (blankColumnBit s.cfg k = true → opaqueState.fb.bit k = true) ∧
        clearState.fb.bit k = false

/-- A FILL after the same FILL leaves the same framebuffer, whatever stood in it before (R136 (a)). -/
def Obligations.FillIsIdempotent : Prop :=
  ∀ (s : State) (b : Bool), s.fsm = .idle →
    ∃ t u, exec (.fill b) s = .next t ∧ exec (.fill b) t = .next u ∧ u.fb = t.fb

/-- SETBIT in range replaces one bit of one byte, and nothing else but the response changes (R133, R136 (d)). -/
def Obligations.SetBitWritesOneBit : Prop :=
  ∀ (s : State) (byteIndex bitOffset : Nat) (b : Bool),
    s.fsm = .idle → s.fb.wf → byteIndex < s.cfg.byteCount → bitOffset ≤ 7 →
    ∃ m : Memory, exec (.setBit byteIndex bitOffset b) s = .next (answered { s with fb := m } 0x00000000) ∧ m.wf ∧
      (∀ j, m.bit j = if j = 8 * byteIndex + bitOffset then b else s.fb.bit j) ∧
      ∀ a, a ≠ byteIndex → m.read a = s.fb.read a

/-- GETBIT in range responds the bit, and changes nothing else (R135). -/
def Obligations.GetBitReadsOneBit : Prop :=
  ∀ (s : State) (byteIndex bitOffset : Nat), s.fsm = .idle → byteIndex < s.cfg.byteCount → bitOffset ≤ 7 →
    exec (.getBit byteIndex bitOffset) s =
      .next (answered s (if (s.fb.read byteIndex).getLsbD bitOffset then 0x00010000 else 0x00000000))

/-- SETBIT and GETBIT outside the framebuffer respond RANGE and change only the fault record (R134, R201, R204). -/
def Obligations.BitAccessOutOfRangeAnswersRange : Prop :=
  ∀ (s : State) (byteIndex bitOffset : Nat) (b : Bool), s.fsm = .idle → s.cfg.byteCount ≤ byteIndex →
    exec (.setBit byteIndex bitOffset b) s = .next (answered { s with fault := firstFault s .range } 0x00000002) ∧
    exec (.getBit byteIndex bitOffset) s = .next (answered { s with fault := firstFault s .range } 0x00000002)

/-- AUXCLK writes the aux-clock enable, with an `EnableOut` event exactly when it changes (R180). -/
def Obligations.AuxClkSwitchesTheEnable : Prop :=
  ∀ (s : State) (b : Bool), s.fsm = .idle →
    exec (.auxClk b) s =
      .next (if s.aux = b then answered s 0x00000000
        else answered { s with aux := b, trace := s.trace ++ [.enableOut b] } 0x00000000)

/-- FLUSH, accepted, starts the FSM: busy, not ready, and no response yet (R151). -/
def Obligations.FlushStartsTheFsm : Prop :=
  ∀ s : State, s.fsm = .idle →
    exec .flush s = .next { s with fsm := .openSession } ∧
    ({ s with fsm := .openSession } : State).busy = true ∧ ({ s with fsm := .openSession } : State).cmdReady = false

/-! ### The flush FSM and the chain (42_transmission.md) -/

/-- The `OPEN` step opens the session (R153). -/
def Obligations.OpenStep : Prop :=
  ∀ s : State, s.fsm = .openSession → (presented s).rst = false →
    ∃ t, step s = .next t ∧
      blockOf t = blockOf { s with session := true, fsm := .latchLo, trace := s.trace ++ [.sessionOpen] }

/-- The `LATCH_LO` step drives the latch low and sets the cursor to the last byte's top bit (R154). -/
def Obligations.LatchLowStep : Prop :=
  ∀ s : State, s.fsm = .latchLo → s.cfg.legal = true → (presented s).rst = false →
    ∃ t, step s = .next t ∧ t.curI.toNat = s.cfg.byteCount - 1 ∧
      blockOf t = blockOf { s with
        latch := false, curI := t.curI, curJ := 7, fsm := .shift,
        trace := s.trace ++ [.latch false], env := { s.env with lvl := false } }

/-- The `SHIFT` step sends bit `cur_j` of byte `cur_i`, which the chain shifts in, and advances the cursor, to the
next lower bit, to the top bit of the next lower byte, or, after the last bit, to `LATCH_HI` (R155, R156). -/
def Obligations.ShiftStep : Prop :=
  ∀ (s : State) (v : Bool), s.fsm = .shift → s.curI.toNat < s.cfg.byteCount → (presented s).rst = false →
    v = (s.fb.read s.curI.toNat).getLsbD s.curJ.toNat →
    ∃ t, step s = .next t ∧
      blockOf t = blockOf { s with
        sdo := v, sck := false, trace := s.trace ++ [.bit v],
        env := { s.env with chain := (v :: s.env.chain).take s.env.chain.length },
        curI := if s.curJ ≠ 0 then s.curI else if s.curI ≠ 0 then s.curI - 1 else s.curI,
        curJ := if s.curJ ≠ 0 then s.curJ - 1 else if s.curI ≠ 0 then 7 else s.curJ,
        fsm := if s.curJ = 0 ∧ s.curI = 0 then .latchHi else .shift }

/-- The `LATCH_HI` step drives the latch high, and a rising edge presents the staged bits (R157, R168). -/
def Obligations.LatchHighStep : Prop :=
  ∀ s : State, s.fsm = .latchHi → (presented s).rst = false →
    ∃ t, step s = .next t ∧
      blockOf t = blockOf { s with
        latch := true, fsm := .close, trace := s.trace ++ [.latch true],
        env := { s.env with visible := (if s.env.lvl = false then s.env.chain else s.env.visible), lvl := true } }

/-- The `CLOSE` step closes the session, returns to `IDLE`, where commands are accepted again, and responds for the
FLUSH (R158). -/
def Obligations.CloseStep : Prop :=
  ∀ s : State, s.fsm = .close → (presented s).rst = false →
    ∃ t, step s = .next t ∧ t.rsp = some 0x00000000 ∧ t.cmdReady = true ∧
      blockOf t = blockOf { s with
        session := false, fsm := .idle, trace := s.trace ++ [.sessionClose, .rsp 0x00000000] }

/-- A FLUSH accepted from any state of the invariant, with no reset on the way, completes in `NBITS + 5` steps: it
emits `SessionOpen`, `Latch(0)`, every bit in descending order of bit index, `Latch(1)`, `SessionClose` and its
response, and leaves the framebuffer as it was, in the chain and in its output latches (R160, R161, R164, R169,
R170). One port sample is used at each step, and `sck` is low between steps (the model's choices, logs 3 and 11). -/
def Obligations.FlushPresentsTheFrame : Prop :=
  ∀ s : State, s.Inv → s.fsm = .idle → commandPresented s → decode (presented s).cmdData = .ok .flush →
    (∀ p ∈ s.inputs.take (s.cfg.bitCount + 5), p.rst = false) →
    ∃ t : State, Host.Core.run Sys2Proof.core (s.cfg.bitCount + 5) s = .next t ∧
      t.trace = s.trace ++ [.sessionOpen, .latch false] ++
        (List.range s.cfg.bitCount).map (fun n => .bit (s.fb.bit (s.cfg.bitCount - 1 - n))) ++
        [.latch true, .sessionClose, .rsp 0x00000000] ∧
      (∀ k, k < s.cfg.bitCount → t.env.visible[k]? = some (s.fb.bit k) ∧ t.env.chain[k]? = some (s.fb.bit k)) ∧
      t.fsm = .idle ∧ t.rsp = some 0x00000000 ∧ t.latch = true ∧ t.session = false ∧ t.sck = false ∧
      t.fb = s.fb ∧ t.cfg = s.cfg ∧ t.rot = s.rot ∧ t.aux = s.aux ∧ t.fault = s.fault ∧
      t.inputs = s.inputs.drop (s.cfg.bitCount + 5)

/-- The chain reacts to the block's events as R168 says. -/
def Obligations.ChainReactsToEvents : Prop :=
  ∀ (env : Env) (v : Bool),
    (∀ k, k < env.chain.length → (env.react (.bit v)).chain[k]? = if k = 0 then some v else env.chain[k - 1]?) ∧
    (env.react (.bit v)).chain.length = env.chain.length ∧
    (env.react (.bit v)).visible = env.visible ∧ (env.react (.bit v)).lvl = env.lvl ∧
    env.react (.latch v) =
      { env with visible := (if v = true ∧ env.lvl = false then env.chain else env.visible), lvl := v } ∧
    env.react .reset = { env with lvl := false }

/-- What the display shows changes only at a `LATCH_HI` step that no reset replaces (R165, R170, R232). -/
def Obligations.DisplayChangesOnlyAtLatchHigh : Prop :=
  ∀ s t : State, step s = .next t → t.env.visible ≠ s.env.visible →
    s.fsm = .latchHi ∧ (presented s).rst = false ∧ t.env.visible = s.env.chain ∧
    t.trace = s.trace ++ [.latch true]

/-- Between flushes, and in every step of a command other than the flush FSM's own, no `Bit` and no `Latch` event is
emitted, and `sck`, `sdo` and `latch` are left alone (R162). -/
def Obligations.CommandsLeaveTheSerialLines : Prop :=
  ∀ s t : State, s.busy = false → (presented s).rst = false → step s = .next t →
    t.sck = s.sck ∧ t.sdo = s.sdo ∧ t.latch = s.latch ∧
    ∃ events, t.trace = s.trace ++ events ∧ ∀ e ∈ events, e.isSerial = false

/-! ### Holding, errors and responses (30_encoding.md, 60_exceptions.md) -/

/-- While the flush FSM runs a presented command is held: it has no effect, and what is presented makes no difference
to the step (R84, R230). -/
def Obligations.CommandsAreHeldDuringAFlush : Prop :=
  ∀ s : State, s.busy = true →
    (∀ i, exec i s = .next s) ∧
    ∀ (p q : PortSample) (rest : List PortSample), p.rst = false → q.rst = false →
      step { s with inputs := p :: rest } = step { s with inputs := q :: rest }

/-- In `CFGERR` every presented word, command or not, responds CONFIG and changes nothing (R203, R206). The step
uses up one port sample (the model's choice, log 3). -/
def Obligations.ConfigErrorAnswersEveryWord : Prop :=
  ∀ s : State, s.fsm = .cfgErr → s.fault = some .config →
    (∀ i, exec i s = .next (answered s 0x00000003)) ∧
    (commandPresented s → step s = .next (answered { s with inputs := s.inputs.tail } 0x00000003))

/-- A block in `CFGERR` stays there and stays silent but for its responses and resets: no `Bit`, `Latch` or
`EnableOut` event, and `enable_out` holds `AUX_RESET` (R203). -/
def Obligations.ConfigErrorIsSilent : Prop :=
  ∀ s t : State, s.Inv → s.fsm = .cfgErr → step s = .next t →
    t.fsm = .cfgErr ∧ t.fault = some .config ∧ t.fb = s.fb ∧ t.enableOut = s.cfg.auxReset ∧
    ∃ events, t.trace = s.trace ++ events ∧ ∀ e ∈ events, e.isSerial = false ∧ e.isEnableOut = false

/-- A recorded fault stays until a reset, and a fault is recorded only with a response of its code (R33, R201, R209). -/
def Obligations.FirstFaultIsKeptUntilReset : Prop :=
  ∀ s t : State, step s = .next t → (presented s).rst = false →
    (∀ code, s.fault = some code → t.fault = some code) ∧
    (∀ code, s.fault = none → t.fault = some code → t.rsp = some (code.status.setWidth 32))

/-- A response is presented exactly at the step that accepts a command that starts no flush, and at the step that
ends one; the trace gains one `Rsp` event then and none otherwise (R86). That a response is presented for that one
step only is the model's reading (log 7). -/
def Obligations.OneResponsePerCommand : Prop :=
  ∀ s t : State, step s = .next t → (presented s).rst = false →
    (t.rsp ≠ none ↔
      (s.busy = false ∧ (presented s).cmdValid = true ∧
        ¬ (s.fsm = .idle ∧ decode (presented s).cmdData = .ok .flush)) ∨ s.fsm = .close) ∧
    t.trace.countP Event.isRsp = s.trace.countP Event.isRsp + (if t.rsp.isSome then 1 else 0)

/-- The status outputs (R32, R33, R34). -/
def Obligations.StatusOutputs : Prop :=
  ∀ s : State,
    (s.busy = true ↔ s.fsm ∈ [Fsm.openSession, .latchLo, .shift, .latchHi, .close]) ∧
    (s.cmdReady = true ↔ s.fsm ∈ [Fsm.idle, .cfgErr]) ∧ s.cmdReady = !s.busy ∧
    s.enableOut = s.aux ∧ (s.faultLine = true ↔ s.fault ≠ none)

/-! ### Reset (70_reset_and_hazards.md) -/

/-- A reset step, whatever else it replaces and whatever command is presented: every element at its reset value, the
chain's cells and the configuration untouched, no response (R220, R222). -/
def Obligations.ResetStep : Prop :=
  ∀ s : State, (presented s).rst = true →
    ∃ t : State, step s = .next t ∧ (∀ a, t.fb.read a = 0x00) ∧ t.rot = .deg0 ∧ t.aux = s.cfg.auxReset ∧
      t.curI = 0 ∧ t.curJ = 0 ∧ t.session = false ∧ t.latch = false ∧ t.sck = false ∧
      t.fsm = (if s.cfg.legal = true then .idle else .cfgErr) ∧
      t.fault = (if s.cfg.legal = true then none else some .config) ∧
      t.rsp = none ∧ t.cfg = s.cfg ∧ t.env = { s.env with lvl := false } ∧
      t.trace = s.trace ++ (if s.aux = s.cfg.auxReset then [] else [.enableOut s.cfg.auxReset]) ++ [.reset]

/-- A reset during a flush ends it at once and leaves the display as it was: in `CLOSE` the new frame, presented at
the step before, and otherwise the previous one; no further event of the flush is emitted (R165, R221). -/
def Obligations.ResetDuringAFlush : Prop :=
  ∀ s : State, s.Inv → s.busy = true → (presented s).rst = true →
    ∃ t : State, step s = .next t ∧ t.env.visible = s.env.visible ∧ t.rsp = none ∧ t.latch = false ∧ t.fsm = .idle ∧
      (s.fsm = .close → ∀ k, k < s.cfg.bitCount → t.env.visible[k]? = some (s.fb.bit k)) ∧
      ∃ events, t.trace = s.trace ++ events ∧
        ∀ e ∈ events, e.isSerial = false ∧ e.isRsp = false ∧ e ≠ .sessionClose

/-! ### The step -/

/-- When the block is ready and the presented word decodes to a command, the step is that command's meaning on the
state that has taken its port sample (R76, R84; taking one is the model's, logs 3 and 7). -/
def Obligations.StepRunsTheDecodedCommand : Prop :=
  ∀ (s : State) (i : Instr), s.cmdReady = true → commandPresented s → decode (presented s).cmdData = .ok i →
    step s = exec i { s with rsp := none, inputs := s.inputs.tail }

/-- Presented to a ready block, the word of any well-formed command is run at the next step (R77, R84; how it is
presented is the model's, logs 2 and 3). -/
def Obligations.EncodedCommandRunsNext : Prop :=
  ∀ (s : State) (i : Instr), s.cmdReady = true → i.wf = true →
    decodeTableWord 64 (encode i).toNat = some i ∧
    step (s.withFetchWord 64 (encode i).toNat) = exec i { s with rsp := none, inputs := s.inputs.tail }

/-- A ready block to which nothing is presented stays as it is (R223, R234); its last response is no longer
presented, and one port sample is used up (the model's choices, logs 3 and 7). -/
def Obligations.ReadyBlockWaits : Prop :=
  ∀ s : State, s.cmdReady = true → (presented s).rst = false → (presented s).cmdValid = false →
    step s = .next { s with rsp := none, inputs := s.inputs.tail }

/-! ### What holds of every step -/

/-- The invariant holds right after the first reset of every build (R22, R220), and so in `State.reset`, whose build
is the model's choice (log 1). -/
def Obligations.PowerOnSatisfiesTheInvariant : Prop :=
  (∀ c : Config, (State.powerOn c).Inv) ∧ State.reset.Inv

/-- Every step keeps the invariant. -/
def Obligations.StepKeepsTheInvariant : Prop := ∀ s t : State, s.Inv → step s = .next t → t.Inv

/-- From every state of the invariant the block goes on: it never stops and is never stuck (R201, R235, I12). -/
def Obligations.TheBlockAlwaysGoesOn : Prop := ∀ s : State, s.Inv → goesOn (step s)

/-- No step changes the configuration (R23). -/
def Obligations.ConfigurationNeverChanges : Prop := ∀ s t : State, step s = .next t → t.cfg = s.cfg

/-- Without a reset, only FILL, SETBIT and SETPIXEL change the framebuffer (R22, R24). -/
def Obligations.OnlyThreeCommandsWriteTheFramebuffer : Prop :=
  ∀ s t : State, step s = .next t → (presented s).rst = false → t.fb ≠ s.fb →
    s.fsm = .idle ∧
    ((∃ b, decode (presented s).cmdData = .ok (.fill b)) ∨
     (∃ byteIndex bitOffset b, decode (presented s).cmdData = .ok (.setBit byteIndex bitOffset b)) ∨
     ∃ x y b, decode (presented s).cmdData = .ok (.setPixel x y b))

/-- Only SETBIT can make a guard bit 1 (R58, R133). -/
def Obligations.OnlySetBitSetsAGuardBit : Prop :=
  ∀ (s t : State) (k : Nat), s.Inv → step s = .next t → guardBit k = true →
    s.fb.bit k = false → t.fb.bit k = true →
    ∃ byteIndex bitOffset, decode (presented s).cmdData = .ok (.setBit byteIndex bitOffset true) ∧
      8 * byteIndex + bitOffset = k

/-- Without a reset, only SETROT changes the rotation, and only AUXCLK the aux-clock enable (R25, R26). -/
def Obligations.OnlyTheirCommandsChangeRotationAndAux : Prop :=
  ∀ s t : State, step s = .next t → (presented s).rst = false →
    (t.rot ≠ s.rot → decode (presented s).cmdData = .ok (.setRot t.rot)) ∧
    (t.aux ≠ s.aux → decode (presented s).cmdData = .ok (.auxClk t.aux))
end

