-- ==== Sys2Proof/Laws/Addressing.lean ====
section
/-! SUPPORT. What the geometry, the Addressing Engine's tests and the bit classes say, each as a statement of
arithmetic (R7, R8, 00_scope.md; R102, 40_addressing.md; R58, R59, 20_memory.md). -/

namespace Sys2Proof.Machine

/-- A legal configuration (R7). -/
theorem legal_iff (c : Config) :
    c.legal = true ↔ (c.pw = 29 ∧ c.rph = 10 ∨ c.pw = 39 ∧ 13 ≤ c.rph ∧ c.rph ≤ 25) ∧
      1 ≤ c.pc ∧ c.pc ≤ 255 ∧ c.pw ≤ c.rph * 3 :=
  decide_eq_true_iff

/-- The framebuffer's bits are those of its bytes (R8). -/
theorem bitCount_eq (c : Config) : c.bitCount = 8 * c.byteCount := by
  unfold Config.bitCount Config.byteCount; ring

/-- The two halves make the framebuffer (R8). -/
theorem two_mul_halfBits (c : Config) : 2 * c.halfBits = c.bitCount := by
  unfold Config.bitCount Config.halfBits; ring

/-- On the host's surface (R102). -/
theorem inBounds_iff (c : Config) (r : Rotation) (x y : Int) :
    inBounds c r x y = true ↔ 0 ≤ x ∧ 0 ≤ y ∧ x < rotatedWidth c r ∧ y < rotatedHeight c r :=
  decide_eq_true_iff

/-- The Addressing Engine answers a bit index exactly for a coordinate in bounds (R100, R102). -/
theorem bitIndex_eq_some_iff (c : Config) (r : Rotation) (x y : Int) (k : Nat) :
    bitIndex c r x y = some k ↔
      inBounds c r x y = true ∧ (physicalBitIndex c (rotate c r x y).1 (rotate c r x y).2).toNat = k := by
  unfold bitIndex; split_ifs with h <;> simp [h]

/-- The Addressing Engine answers `OOB` exactly for a coordinate out of bounds (R102). -/
theorem bitIndex_eq_none_iff (c : Config) (r : Rotation) (x y : Int) :
    bitIndex c r x y = none ↔ inBounds c r x y = false := by
  unfold bitIndex; split_ifs with h <;> simp [h]

/-- A byte index and bit offset name a bit exactly inside the framebuffer (R134). -/
theorem bitTarget_eq_some_iff (s : State) (byteIndex bitOffset k : Nat) :
    bitTarget s byteIndex bitOffset = some k ↔ byteIndex < s.cfg.byteCount ∧ 8 * byteIndex + bitOffset = k := by
  unfold bitTarget; split_ifs with h <;> simp [h]

/-- A guard bit (R58). -/
theorem guardBit_iff (k : Nat) : guardBit k = true ↔ k % 40 < 2 ∨ 38 ≤ k % 40 := decide_eq_true_iff

/-- A pixel bit (R59). -/
theorem pixelBit_iff (c : Config) (k : Nat) :
    pixelBit c k = true ↔ k < c.bitCount ∧ guardBit k = false ∧ localColumnOf c k < c.pw := by
  simp [pixelBit, and_assoc]

/-- A blank-column bit (R59). -/
theorem blankColumnBit_iff (c : Config) (k : Nat) :
    blankColumnBit c k = true ↔ k < c.bitCount ∧ guardBit k = false ∧ c.pw ≤ localColumnOf c k := by
  simp [blankColumnBit, and_assoc]

end Sys2Proof.Machine
end

