-- ==== Sys2Proof/Laws/Chain.lean ====
section
/-! SUPPORT. The laws of the external chain's reaction to events (R168, 42_transmission.md). -/

namespace Sys2Proof.Machine

@[simp] theorem length_shiftIn (v : Bool) (cells : List Bool) : (shiftIn v cells).length = cells.length := by
  simp [shiftIn]

/-- Cell 0 takes the bit (R168). -/
theorem getElem?_shiftIn_zero {v : Bool} {cells : List Bool} (h : 0 < cells.length) :
    (shiftIn v cells)[0]? = some v := by
  simp [shiftIn, h]

/-- Every other cell takes its neighbour's bit (R168). -/
theorem getElem?_shiftIn_succ {v : Bool} {cells : List Bool} {k : Nat} (h : k + 1 < cells.length) :
    (shiftIn v cells)[k + 1]? = cells[k]? := by
  simp [shiftIn, h]

@[simp] theorem react_rsp (env : Env) (w : RspWord) : env.react (.rsp w) = env := rfl
@[simp] theorem react_sessionOpen (env : Env) : env.react .sessionOpen = env := rfl
@[simp] theorem react_sessionClose (env : Env) : env.react .sessionClose = env := rfl
@[simp] theorem react_enableOut (env : Env) (v : Bool) : env.react (.enableOut v) = env := rfl
@[simp] theorem react_reset (env : Env) : env.react .reset = { env with lvl := false } := rfl
@[simp] theorem react_bit (env : Env) (v : Bool) : env.react (.bit v) = { env with chain := shiftIn v env.chain } := rfl
@[simp] theorem react_latch_low (env : Env) : env.react (.latch false) = { env with lvl := false } := by
  simp [Env.react]

/-- A rising edge copies the staged bits to the output latches (R168). -/
theorem react_latch_rising {env : Env} (h : env.lvl = false) :
    env.react (.latch true) = { env with visible := env.chain, lvl := true } := by
  simp [Env.react, h]

@[simp] theorem react_chain_length (env : Env) (e : Event) : (env.react e).chain.length = env.chain.length := by
  cases e <;> simp [Env.react]

@[simp] theorem length_powerUpEnv_chain (n : Nat) : (powerUpEnv n).chain.length = n := by simp [powerUpEnv]
@[simp] theorem length_powerUpEnv_visible (n : Nat) : (powerUpEnv n).visible.length = n := by simp [powerUpEnv]
@[simp] theorem powerUpEnv_lvl (n : Nat) : (powerUpEnv n).lvl = false := rfl

end Sys2Proof.Machine
end

