-- ==== Sys2Proof/Laws/Encoding.lean ====
section
/-! SUPPORT. The command word as its fields in order (R70, 30_encoding.md), the fields of an assembled word, and
which row of the opcode map a word belongs to (R73, R76). -/

namespace Sys2Proof

/-- A command word from its fields, the highest first (R70). -/
def layWord (r3 B A : BitVec 16) (r2 : BitVec 6) (r : BitVec 2) (r1 : BitVec 3) (b : BitVec 1) (op : BitVec 4) :
    CmdWord :=
  r3 ++ B ++ A ++ r2 ++ r ++ r1 ++ b ++ op

section
variable (r3 B A : BitVec 16) (r2 : BitVec 6) (r : BitVec 2) (r1 : BitVec 3) (b : BitVec 1) (op : BitVec 4)
variable (r3' B' A' : BitVec 16) (r2' : BitVec 6) (r' : BitVec 2) (r1' : BitVec 3) (b' : BitVec 1) (op' : BitVec 4)

theorem getLsbD_layWord (i : Nat) : (layWord r3 B A r2 r r1 b op).getLsbD i =
    if i < 4 then op.getLsbD i else if i < 5 then b.getLsbD (i - 4) else if i < 8 then r1.getLsbD (i - 5)
    else if i < 10 then r.getLsbD (i - 8) else if i < 16 then r2.getLsbD (i - 10)
    else if i < 32 then A.getLsbD (i - 16) else if i < 48 then B.getLsbD (i - 32) else r3.getLsbD (i - 48) := by
  simp only [layWord, BitVec.getLsbD_append, Nat.sub_sub]
  split_ifs <;> (first | rfl | omega)

/-- Masking a word masks each of its fields. -/
theorem layWord_and : layWord r3 B A r2 r r1 b op &&& layWord r3' B' A' r2' r' r1' b' op' =
    layWord (r3 &&& r3') (B &&& B') (A &&& A') (r2 &&& r2') (r &&& r') (r1 &&& r1') (b &&& b') (op &&& op') := by
  refine BitVec.eq_of_getLsbD_eq fun i hi => ?_
  simp only [BitVec.getLsbD_and, getLsbD_layWord]
  split_ifs <;> rfl

theorem opField_layWord : opField (layWord r3 B A r2 r r1 b op) = op := by
  refine BitVec.eq_of_getLsbD_eq fun i hi => ?_
  simp [opField, getLsbD_layWord, hi]

theorem stateField_layWord : stateField (layWord r3 B A r2 r r1 b op) = b.getLsbD 0 := by
  rw [stateField, getLsbD_layWord]; rfl

theorem rotationField_layWord : rotationField (layWord r3 B A r2 r r1 b op) = Rotation.ofCode r := by
  have h : (layWord r3 B A r2 r r1 b op).extractLsb' 8 2 = r := by
    refine BitVec.eq_of_getLsbD_eq fun i hi => ?_
    simp only [BitVec.getLsbD_extractLsb', getLsbD_layWord, hi, decide_true, Bool.true_and]
    split_ifs <;> first | omega | (congr 1; omega)
  rw [rotationField, h]

theorem aField_layWord : aField (layWord r3 B A r2 r r1 b op) = A := by
  refine BitVec.eq_of_getLsbD_eq fun i hi => ?_
  simp only [aField, BitVec.getLsbD_extractLsb', getLsbD_layWord, hi, decide_true, Bool.true_and]
  split_ifs <;> first | omega | (congr 1; omega)

theorem bField_layWord : bField (layWord r3 B A r2 r r1 b op) = B := by
  refine BitVec.eq_of_getLsbD_eq fun i hi => ?_
  simp only [bField, BitVec.getLsbD_extractLsb', getLsbD_layWord, hi, decide_true, Bool.true_and]
  split_ifs <;> first | omega | (congr 1; omega)

/-- The bit offset is operand B's low three bits (R70). -/
theorem bitOffsetField_eq (w : CmdWord) : bitOffsetField w = (bField w).toNat % 8 := by
  simp only [bitOffsetField, bField, BitVec.extractLsb'_toNat, Nat.shiftRight_eq_div_pow]
  omega

/-- Two words are the same word exactly when their fields are the same. -/
theorem layWord_inj : layWord r3 B A r2 r r1 b op = layWord r3' B' A' r2' r' r1' b' op' ↔
    r3 = r3' ∧ B = B' ∧ A = A' ∧ r2 = r2' ∧ r = r' ∧ r1 = r1' ∧ b = b' ∧ op = op' := by
  refine ⟨fun h => ?_, by rintro ⟨rfl, rfl, rfl, rfl, rfl, rfl, rfl, rfl⟩; rfl⟩
  have hb : ∀ i, (layWord r3 B A r2 r r1 b op).getLsbD i = (layWord r3' B' A' r2' r' r1' b' op').getLsbD i :=
    fun i => by rw [h]
  simp only [getLsbD_layWord] at hb
  refine ⟨?_, ?_, ?_, ?_, ?_, ?_, ?_, ?_⟩ <;> refine BitVec.eq_of_getLsbD_eq fun i hi => ?_
  · simpa [show ¬ i + 48 < 4 by omega, show ¬ i + 48 < 5 by omega, show ¬ i + 48 < 8 by omega,
      show ¬ i + 48 < 10 by omega, show ¬ i + 48 < 16 by omega, show ¬ i + 48 < 32 by omega] using hb (i + 48)
  · simpa [show ¬ i + 32 < 4 by omega, show ¬ i + 32 < 5 by omega, show ¬ i + 32 < 8 by omega,
      show ¬ i + 32 < 10 by omega, show ¬ i + 32 < 16 by omega, hi, show i + 32 < 48 by omega] using hb (i + 32)
  · simpa [show ¬ i + 16 < 4 by omega, show ¬ i + 16 < 5 by omega, show ¬ i + 16 < 8 by omega,
      show ¬ i + 16 < 10 by omega, hi, show i + 16 < 32 by omega] using hb (i + 16)
  · simpa [show ¬ i + 10 < 4 by omega, show ¬ i + 10 < 5 by omega, show ¬ i + 10 < 8 by omega,
      show i + 10 < 16 by omega] using hb (i + 10)
  · simpa [show ¬ i + 8 < 4 by omega, show ¬ i + 8 < 5 by omega, show i + 8 < 10 by omega] using hb (i + 8)
  · simpa [show ¬ i + 5 < 4 by omega, show i + 5 < 8 by omega] using hb (i + 5)
  · simpa [show i + 4 < 5 by omega] using hb (i + 4)
  · simpa [hi] using hb i

end

/-- Every word is its fields. -/
theorem layWord_surjective (w : CmdWord) : ∃ r3 B A r2 r r1 b op, w = layWord r3 B A r2 r r1 b op := by
  refine ⟨w.extractLsb' 48 16, w.extractLsb' 32 16, w.extractLsb' 16 16, w.extractLsb' 10 6, w.extractLsb' 8 2,
    w.extractLsb' 5 3, w.extractLsb' 4 1, w.extractLsb' 0 4, BitVec.eq_of_getLsbD_eq fun i hi => ?_⟩
  simp only [getLsbD_layWord, BitVec.getLsbD_extractLsb']
  split_ifs <;> simp_all <;> omega

/-- The assembler's word is its fields with the reserved bits 0 (R78). -/
theorem packWord_eq (op : BitVec 4) (b : Bool) (r : BitVec 2) (A B : BitVec 16) :
    packWord op b r A B = layWord 0 B A 0 r 0 (BitVec.ofBool b) op := by
  refine BitVec.eq_of_getLsbD_eq fun i hi => ?_
  simp only [packWord, BitVec.getLsbD_or, BitVec.getLsbD_shiftLeft, BitVec.getLsbD_setWidth, getLsbD_layWord]
  interval_cases i <;> simp

/-- A word is a row's exactly when the fields the row fixes are the row's (R76). -/
theorem hits_iff (row : OpRow) (w : CmdWord) : row.hits w = true ↔ w &&& row.mask = row.pattern := by
  simp [OpRow.hits]

/-- The orientation of a code and the code of an orientation agree (R25). -/
@[simp] theorem ofCode_code (r : Rotation) : Rotation.ofCode r.code = r := by cases r <;> rfl

@[simp] theorem code_ofCode (v : BitVec 2) : (Rotation.ofCode v).code = v := by
  revert v; decide

/-- A coordinate in range comes back from its field (R72). -/
theorem toInt_ofInt_of_inRange {v : Int} (h : coordinateInRange v = true) : (BitVec.ofInt 16 v).toInt = v := by
  have : -32768 ≤ v ∧ v ≤ 32767 := of_decide_eq_true h
  rw [BitVec.toInt_ofInt]
  exact Int.bmod_eq_of_le (by norm_num; omega) (by norm_num; omega)

/-- A byte index in range comes back from its field (R72). -/
theorem toNat_ofNat_of_inRange {n : Nat} (h : byteIndexInRange n = true) : (BitVec.ofNat 16 n).toNat = n := by
  have : n ≤ 65535 := of_decide_eq_true h
  rw [BitVec.toNat_ofNat, Nat.mod_eq_of_lt (by omega)]

/-- A bit offset in range leaves the upper bits of operand B 0 (R71). -/
theorem ofNat_and_of_inRange {n : Nat} (h : bitOffsetInRange n = true) : BitVec.ofNat 16 n &&& 0xFFF8#16 = 0 := by
  have : n ≤ 7 := of_decide_eq_true h
  interval_cases n <;> rfl

end Sys2Proof
end

