-- ==== Sys2Proof/Laws/Memory.lean ====
section
/-! SUPPORT. The laws of the framebuffer's cells: every operation keeps their one form, a read after a write gives
the byte written, and a write leaves every other byte alone (R12, 00_scope.md; R51, 20_memory.md). -/

namespace Sys2Proof.Machine

/-! ### Reading -/

@[simp] theorem Memory.read_nil (b : Nat) : Memory.read [] b = 0 := rfl

theorem Memory.read_cons (a : Nat) (v : Byte) (m : Memory) (b : Nat) :
    Memory.read ((a, v) :: m) b = if a = b then v else Memory.read m b := rfl

/-- A byte whose index is not listed reads 0x00. -/
theorem Memory.read_unlisted {m : Memory} {b : Nat} (h : ∀ p ∈ m, p.1 ≠ b) : m.read b = 0 := by
  induction m with
  | nil => rfl
  | cons p rest ih =>
    obtain ⟨a, v⟩ := p
    rw [Memory.read_cons, if_neg (h (a, v) (by simp)), ih fun q hq => h q (by simp [hq])]

theorem mem_listed {b : Nat} {v : Byte} {p : Host.Cell} : p ∈ listed b v ↔ p = (b, v) ∧ v ≠ 0 := by
  unfold listed unlistedByte; split_ifs with h <;> simp [h]
  exact fun _ => h

@[simp] theorem read_listed_self (b : Nat) (v : Byte) : Memory.read (listed b v) b = v := by
  unfold listed unlistedByte; split_ifs with h <;> simp [h, Memory.read_cons]

theorem listed_eq (b : Nat) (v : Byte) : listed b v = [] ∧ v = 0 ∨ listed b v = [(b, v)] ∧ v ≠ 0 := by
  unfold listed unlistedByte; split_ifs with h <;> simp [h]
  exact h

theorem Memory.read_listed_append (b : Nat) (v : Byte) (m : Memory) (a : Nat) (h : ∀ p ∈ m, b < p.1) :
    Memory.read (listed b v ++ m) a = if a = b then v else m.read a := by
  rcases listed_eq b v with ⟨e, hv⟩ | ⟨e, hv⟩
  · rw [e, List.nil_append]
    split_ifs with ha
    · rw [ha, hv, Memory.read_unlisted]
      intro p hp; have := h p hp; omega
    · rfl
  · rw [e, List.singleton_append, Memory.read_cons]
    by_cases ha : a = b
    · simp [ha]
    · rw [if_neg (fun e => ha e.symm), if_neg ha]

/-! ### The one form -/

theorem Memory.wf_nil : Memory.wf [] := ⟨List.Pairwise.nil, by simp⟩

theorem Memory.wf_cons {a : Nat} {v : Byte} {m : Memory} :
    Memory.wf ((a, v) :: m) ↔ (∀ p ∈ m, a < p.1) ∧ v ≠ 0 ∧ m.wf := by
  simp only [Memory.wf, List.pairwise_cons, List.forall_mem_cons]
  tauto

theorem Memory.wf_listed_append {b : Nat} {v : Byte} {m : Memory} (hm : m.wf) (h : ∀ p ∈ m, b < p.1) :
    Memory.wf (listed b v ++ m) := by
  rcases listed_eq b v with ⟨e, -⟩ | ⟨e, hv⟩
  · rwa [e]
  · rw [e, List.singleton_append, Memory.wf_cons]; exact ⟨h, hv, hm⟩

/-! ### Writing -/

/-- What a write lists is what was listed, or the byte written. -/
theorem Memory.mem_write {m : Memory} {b : Nat} {v : Byte} {p : Host.Cell} (h : p ∈ m.write b v) :
    p = (b, v) ∨ p ∈ m := by
  induction m with
  | nil => exact .inl (mem_listed.1 h).1
  | cons q rest ih =>
    obtain ⟨a, u⟩ := q
    unfold Memory.write at h
    split_ifs at h with h1 h2
    · rcases List.mem_append.1 h with h | h
      · exact .inl (mem_listed.1 h).1
      · exact .inr h
    · rcases List.mem_append.1 h with h | h
      · exact .inl (mem_listed.1 h).1
      · exact .inr (List.mem_cons_of_mem _ h)
    · rcases List.mem_cons.1 h with h | h
      · exact .inr (by simp [h])
      · exact (ih h).imp id (List.mem_cons_of_mem _)

/-- A write keeps the one form. -/
theorem Memory.write_wf {m : Memory} (hm : m.wf) (b : Nat) (v : Byte) : (m.write b v).wf := by
  induction m with
  | nil => simpa [Memory.write] using Memory.wf_listed_append (b := b) (v := v) Memory.wf_nil (by simp)
  | cons q rest ih =>
    obtain ⟨a, u⟩ := q
    obtain ⟨hlt, hu, hrest⟩ := Memory.wf_cons.1 hm
    unfold Memory.write
    split_ifs with h1 h2
    · refine Memory.wf_listed_append hm fun p hp => ?_
      rcases List.mem_cons.1 hp with rfl | hp
      · exact h1
      · exact h1.trans (hlt p hp)
    · subst h2; exact Memory.wf_listed_append hrest hlt
    · refine Memory.wf_cons.2 ⟨fun p hp => ?_, hu, ih hrest⟩
      rcases Memory.mem_write hp with rfl | hp
      · simp only; omega
      · exact hlt p hp

/-- A byte reads what was written last (R12). -/
theorem Memory.read_write {m : Memory} (hm : m.wf) (b : Nat) (v : Byte) (a : Nat) :
    (m.write b v).read a = if a = b then v else m.read a := by
  induction m with
  | nil => simpa [Memory.write] using Memory.read_listed_append b v [] a (by simp)
  | cons q rest ih =>
    obtain ⟨c, u⟩ := q
    obtain ⟨hlt, hu, hrest⟩ := Memory.wf_cons.1 hm
    by_cases h1 : b < c
    · rw [Memory.write, if_pos h1, Memory.read_listed_append _ _ _ _ fun p hp => ?_]
      rcases List.mem_cons.1 hp with rfl | hp
      · exact h1
      · exact h1.trans (hlt p hp)
    rw [Memory.write, if_neg h1]
    by_cases h2 : c = b
    · rw [if_pos h2, Memory.read_listed_append _ _ _ _ (h2 ▸ hlt), Memory.read_cons]
      by_cases ha : a = b
      · rw [if_pos ha, if_pos ha]
      · rw [if_neg ha, if_neg ha, if_neg (by omega)]
    · rw [if_neg h2, Memory.read_cons, Memory.read_cons, ih hrest]
      by_cases ha : c = a
      · rw [if_pos ha, if_pos ha, if_neg (by omega)]
      · rw [if_neg ha, if_neg ha]

/-! ### Filling -/

theorem mem_tabulate {n : Nat} {f : Nat → Byte} {p : Host.Cell} :
    p ∈ Memory.tabulate n f ↔ p.1 < n ∧ p.2 = f p.1 ∧ p.2 ≠ 0 := by
  obtain ⟨a, v⟩ := p
  simp only [Memory.tabulate, List.mem_flatMap, List.mem_range, mem_listed, Prod.mk.injEq]
  constructor
  · rintro ⟨b, hb, ⟨rfl, rfl⟩, hv⟩; exact ⟨hb, rfl, hv⟩
  · rintro ⟨ha, rfl, hv⟩; exact ⟨a, ha, ⟨rfl, rfl⟩, hv⟩

theorem Memory.tabulate_succ (n : Nat) (f : Nat → Byte) :
    Memory.tabulate (n + 1) f = Memory.tabulate n f ++ listed n (f n) := by
  simp [Memory.tabulate, List.range_succ]

/-- A fill has the one form. -/
theorem Memory.tabulate_wf (n : Nat) (f : Nat → Byte) : (Memory.tabulate n f).wf := by
  refine ⟨?_, fun p hp => (mem_tabulate.1 hp).2.2⟩
  induction n with
  | zero => simp [Memory.tabulate]
  | succ n ih =>
    rw [Memory.tabulate_succ, List.pairwise_append]
    refine ⟨ih, ?_, fun p hp q hq => ?_⟩
    · rcases listed_eq n (f n) with ⟨e, -⟩ | ⟨e, -⟩ <;> rw [e] <;> simp
    · rw [(mem_listed.1 hq).1]; exact (mem_tabulate.1 hp).1

theorem Memory.read_append_of_unlisted {m n : Memory} {b : Nat} (h : ∀ p ∈ m, p.1 ≠ b) :
    Memory.read (m ++ n) b = Memory.read n b := by
  induction m with
  | nil => rfl
  | cons p rest ih =>
    obtain ⟨a, v⟩ := p
    rw [List.cons_append, Memory.read_cons, if_neg (h (a, v) (by simp)), ih fun q hq => h q (by simp [hq])]

theorem Memory.read_append_of_unlisted_right {m n : Memory} {b : Nat} (h : ∀ p ∈ n, p.1 ≠ b) :
    Memory.read (m ++ n) b = Memory.read m b := by
  induction m with
  | nil => simpa using Memory.read_unlisted h
  | cons p rest ih => obtain ⟨a, v⟩ := p; simp only [List.cons_append, Memory.read_cons, ih]

/-- A fill's byte reads what it was filled with, and no other byte is listed (R130). -/
theorem Memory.read_tabulate (n : Nat) (f : Nat → Byte) (b : Nat) :
    (Memory.tabulate n f).read b = if b < n then f b else 0 := by
  induction n with
  | zero => simp [Memory.tabulate]
  | succ n ih =>
    rw [Memory.tabulate_succ]
    by_cases hb : b = n
    · subst hb
      rw [Memory.read_append_of_unlisted fun p hp => by have := (mem_tabulate.1 hp).1; omega]
      simp
    · rw [Memory.read_append_of_unlisted_right fun p hp => by rw [(mem_listed.1 hp).1]; exact Ne.symm hb, ih]
      by_cases hlt : b < n
      · rw [if_pos hlt, if_pos (by omega)]
      · rw [if_neg hlt, if_neg (by omega)]

/-! ### Bits -/

/-- One bit of a byte replaced, and no other (R12). -/
theorem getLsbD_replaceBit (v : Byte) (j : Nat) (b : Bool) (i : Nat) (hj : j < 8) (hi : i < 8) :
    (replaceBit v j b).getLsbD i = if i = j then b else v.getLsbD i := by
  interval_cases j <;> interval_cases i <;> cases b <;> simp [replaceBit]

/-- A bit reads what was written last, and every other bit is left alone (R12, R51, R136). -/
theorem Memory.bit_setBit {m : Memory} (hm : m.wf) (k : Nat) (b : Bool) (j : Nat) :
    (m.setBit k b).bit j = if j = k then b else m.bit j := by
  simp only [Memory.bit, Memory.setBit, Memory.read_write hm]
  by_cases hbyte : j / 8 = k / 8
  · rw [if_pos hbyte, getLsbD_replaceBit _ _ _ _ (by omega) (by omega)]
    by_cases hjk : j = k
    · simp [hjk]
    · rw [if_neg (by omega), if_neg hjk, hbyte]
  · rw [if_neg hbyte, if_neg (fun h => hbyte (by rw [h]))]

theorem Memory.setBit_wf {m : Memory} (hm : m.wf) (k : Nat) (b : Bool) : (m.setBit k b).wf :=
  Memory.write_wf hm _ _

/-- Every byte but the bit's own is left alone. -/
theorem Memory.read_setBit_of_ne {m : Memory} (hm : m.wf) (k : Nat) (b : Bool) {a : Nat} (h : a ≠ k / 8) :
    (m.setBit k b).read a = m.read a := by
  rw [Memory.setBit, Memory.read_write hm, if_neg h]

theorem Memory.mem_setBit {m : Memory} {k : Nat} {b : Bool} {p : Host.Cell} (h : p ∈ m.setBit k b) :
    p.1 = k / 8 ∨ p ∈ m :=
  (Memory.mem_write h).imp (fun e => by rw [e]) id

/-- Two framebuffers in the one form that read alike are the same data. -/
theorem Memory.eq_of_read_eq {m n : Memory} (hm : m.wf) (hn : n.wf) (h : ∀ b, m.read b = n.read b) : m = n := by
  induction m generalizing n with
  | nil =>
    cases n with
    | nil => rfl
    | cons q rest =>
      obtain ⟨a, v⟩ := q
      have := h a
      rw [Memory.read_cons, if_pos rfl] at this
      exact absurd this.symm (Memory.wf_cons.1 hn).2.1
  | cons p rest ih =>
    obtain ⟨a, v⟩ := p
    obtain ⟨hlt, hv, hrest⟩ := Memory.wf_cons.1 hm
    cases n with
    | nil =>
      have := h a
      rw [Memory.read_cons, if_pos rfl] at this
      exact absurd this hv
    | cons q rest' =>
      obtain ⟨c, w⟩ := q
      obtain ⟨hlt', hw, hrest'⟩ := Memory.wf_cons.1 hn
      have hac : a = c := by
        rcases Nat.lt_trichotomy a c with hc | hc | hc
        · have := h a
          rw [Memory.read_cons, if_pos rfl, Memory.read_cons, if_neg (by omega),
            Memory.read_unlisted fun p hp => by have := hlt' p hp; omega] at this
          exact absurd this hv
        · exact hc
        · have := h c
          rw [Memory.read_cons, if_neg (by omega), Memory.read_cons, if_pos rfl,
            Memory.read_unlisted fun p hp => by have := hlt p hp; omega] at this
          exact absurd this.symm hw
      subst hac
      have hvw : v = w := by have := h a; simpa [Memory.read_cons] using this
      subst hvw
      rw [ih hrest hrest' fun b => ?_]
      by_cases hb : a = b
      · subst hb
        rw [Memory.read_unlisted fun p hp => by have := hlt p hp; omega,
          Memory.read_unlisted fun p hp => by have := hlt' p hp; omega]
      · have := h b
        rwa [Memory.read_cons, if_neg hb, Memory.read_cons, if_neg hb] at this

end Sys2Proof.Machine
end

