-- ==== Sys2Proof/Laws/PerInstr.lean ====
section
/-! SUPPORT. The family EncodedRow: the word of a well-formed command belongs to a row of the opcode map, and that
row reads the command's operands back (R72, R73, R76, 30_encoding.md). -/

namespace Sys2Proof.Laws

/-- The word of a well-formed command belongs to a row of the opcode map that reads it back. -/
def EncodedRow.Statement (i : Instr) : Prop :=
  i.wf = true → ∃ row ∈ opTable, row.hits (encode i) = true ∧ row.operands (encode i) = i

theorem EncodedRow.setPixel (x y : Int) (b : Bool) : EncodedRow.Statement (.setPixel x y b) := by
  intro h
  have hxy : coordinateInRange x = true ∧ coordinateInRange y = true := by simpa [Instr.wf] using h
  refine ⟨rowSetPixel, by simp [opTable], ?_, ?_⟩
  · rw [hits_iff, encode, packWord_eq, show rowSetPixel.mask = layWord 0xFFFF#16 0 0 0x3F#6 3#2 7#3 0 0xF#4 from by decide, layWord_and]
    simp
    rfl
  · simp only [rowSetPixel, encode, packWord_eq, xField, yField, aField_layWord, bField_layWord, stateField_layWord, toInt_ofInt_of_inRange hxy.1,
      toInt_ofInt_of_inRange hxy.2]
    cases b <;> rfl

theorem EncodedRow.getPixel (x y : Int) : EncodedRow.Statement (.getPixel x y) := by
  intro h
  have hxy : coordinateInRange x = true ∧ coordinateInRange y = true := by simpa [Instr.wf] using h
  refine ⟨rowGetPixel, by simp [opTable], ?_, ?_⟩
  · rw [hits_iff, encode, packWord_eq, show rowGetPixel.mask = layWord 0xFFFF#16 0 0 0x3F#6 3#2 7#3 1#1 0xF#4 from by decide, layWord_and]
    simp
    rfl
  · simp only [rowGetPixel, encode, packWord_eq, xField, yField, aField_layWord, bField_layWord, toInt_ofInt_of_inRange hxy.1,
      toInt_ofInt_of_inRange hxy.2]

theorem EncodedRow.fill (b : Bool) : EncodedRow.Statement (.fill b) := by
  intro h
  refine ⟨rowFill, by simp [opTable], ?_, ?_⟩
  · rw [hits_iff, encode, packWord_eq, show rowFill.mask = layWord 0xFFFF#16 0xFFFF#16 0xFFFF#16 0x3F#6 3#2 7#3 0 0xF#4 from by decide, layWord_and]
    simp
    rfl
  · cases b <;> rfl

theorem EncodedRow.setBit (byteIndex bitOffset : Nat) (b : Bool) : EncodedRow.Statement (.setBit byteIndex bitOffset b) := by
  intro h
  have hbb : byteIndexInRange byteIndex = true ∧ bitOffsetInRange bitOffset = true := by simpa [Instr.wf] using h
  have hlow : bitOffset < 8 := by have := of_decide_eq_true hbb.2; omega
  refine ⟨rowSetBit, by simp [opTable], ?_, ?_⟩
  · rw [hits_iff, encode, packWord_eq, show rowSetBit.mask = layWord 0xFFFF#16 0xFFF8#16 0 0x3F#6 3#2 7#3 0 0xF#4 from by decide, layWord_and]
    simp [ofNat_and_of_inRange hbb.2]
    rfl
  · simp only [rowSetBit, encode, packWord_eq, byteIndexField, bitOffsetField_eq, aField_layWord, bField_layWord,
      stateField_layWord, toNat_ofNat_of_inRange hbb.1, BitVec.toNat_ofNat, Nat.mod_eq_of_lt (show bitOffset < 2 ^ 16 by omega),
      Nat.mod_eq_of_lt hlow]
    cases b <;> rfl

theorem EncodedRow.getBit (byteIndex bitOffset : Nat) : EncodedRow.Statement (.getBit byteIndex bitOffset) := by
  intro h
  have hbb : byteIndexInRange byteIndex = true ∧ bitOffsetInRange bitOffset = true := by simpa [Instr.wf] using h
  have hlow : bitOffset < 8 := by have := of_decide_eq_true hbb.2; omega
  refine ⟨rowGetBit, by simp [opTable], ?_, ?_⟩
  · rw [hits_iff, encode, packWord_eq, show rowGetBit.mask = layWord 0xFFFF#16 0xFFF8#16 0 0x3F#6 3#2 7#3 1#1 0xF#4 from by decide, layWord_and]
    simp [ofNat_and_of_inRange hbb.2]
    rfl
  · simp only [rowGetBit, encode, packWord_eq, byteIndexField, bitOffsetField_eq, aField_layWord, bField_layWord,
      toNat_ofNat_of_inRange hbb.1, BitVec.toNat_ofNat, Nat.mod_eq_of_lt (show bitOffset < 2 ^ 16 by omega),
      Nat.mod_eq_of_lt hlow]

theorem EncodedRow.setRot (r : Rotation) : EncodedRow.Statement (.setRot r) := by
  intro h
  refine ⟨rowSetRot, by simp [opTable], ?_, ?_⟩
  · rw [hits_iff, encode, packWord_eq, show rowSetRot.mask = layWord 0xFFFF#16 0xFFFF#16 0xFFFF#16 0x3F#6 0 7#3 1#1 0xF#4 from by decide, layWord_and]
    simp
    rfl
  · simp only [rowSetRot, encode, packWord_eq, rotationField_layWord, ofCode_code]

theorem EncodedRow.getWidth : EncodedRow.Statement .getWidth := by
  intro h
  refine ⟨rowGetWidth, by simp [opTable], ?_, ?_⟩
  · rw [hits_iff, encode, packWord_eq, show rowGetWidth.mask = layWord 0xFFFF#16 0xFFFF#16 0xFFFF#16 0x3F#6 3#2 7#3 1#1 0xF#4 from by decide, layWord_and]
    simp
    rfl
  · rfl

theorem EncodedRow.getHeight : EncodedRow.Statement .getHeight := by
  intro h
  refine ⟨rowGetHeight, by simp [opTable], ?_, ?_⟩
  · rw [hits_iff, encode, packWord_eq, show rowGetHeight.mask = layWord 0xFFFF#16 0xFFFF#16 0xFFFF#16 0x3F#6 3#2 7#3 1#1 0xF#4 from by decide, layWord_and]
    simp
    rfl
  · rfl

theorem EncodedRow.flush : EncodedRow.Statement .flush := by
  intro h
  refine ⟨rowFlush, by simp [opTable], ?_, ?_⟩
  · rw [hits_iff, encode, packWord_eq, show rowFlush.mask = layWord 0xFFFF#16 0xFFFF#16 0xFFFF#16 0x3F#6 3#2 7#3 1#1 0xF#4 from by decide, layWord_and]
    simp
    rfl
  · rfl

theorem EncodedRow.auxClk (b : Bool) : EncodedRow.Statement (.auxClk b) := by
  intro h
  refine ⟨rowAuxClk, by simp [opTable], ?_, ?_⟩
  · rw [hits_iff, encode, packWord_eq, show rowAuxClk.mask = layWord 0xFFFF#16 0xFFFF#16 0xFFFF#16 0x3F#6 3#2 7#3 0 0xF#4 from by decide, layWord_and]
    simp
    rfl
  · cases b <;> rfl

end Sys2Proof.Laws
end

