-- ==== Sys2Proof/Laws/State.lean ====
section
/-! SUPPORT. One lemma per field of State per named update of it, so that no proof unfolds a record update. -/

namespace Sys2Proof.Machine

/-! ### An event -/

@[simp] theorem emit_cfg (e : Event) (s : State) : (emit e s).cfg = s.cfg := rfl
@[simp] theorem emit_fb (e : Event) (s : State) : (emit e s).fb = s.fb := rfl
@[simp] theorem emit_rot (e : Event) (s : State) : (emit e s).rot = s.rot := rfl
@[simp] theorem emit_aux (e : Event) (s : State) : (emit e s).aux = s.aux := rfl
@[simp] theorem emit_fsm (e : Event) (s : State) : (emit e s).fsm = s.fsm := rfl
@[simp] theorem emit_curI (e : Event) (s : State) : (emit e s).curI = s.curI := rfl
@[simp] theorem emit_curJ (e : Event) (s : State) : (emit e s).curJ = s.curJ := rfl
@[simp] theorem emit_session (e : Event) (s : State) : (emit e s).session = s.session := rfl
@[simp] theorem emit_latch (e : Event) (s : State) : (emit e s).latch = s.latch := rfl
@[simp] theorem emit_sck (e : Event) (s : State) : (emit e s).sck = s.sck := rfl
@[simp] theorem emit_sdo (e : Event) (s : State) : (emit e s).sdo = s.sdo := rfl
@[simp] theorem emit_fault (e : Event) (s : State) : (emit e s).fault = s.fault := rfl
@[simp] theorem emit_rsp (e : Event) (s : State) : (emit e s).rsp = s.rsp := rfl
@[simp] theorem emit_inputs (e : Event) (s : State) : (emit e s).inputs = s.inputs := rfl
@[simp] theorem emit_trace (e : Event) (s : State) : (emit e s).trace = s.trace ++ [e] := rfl
@[simp] theorem emit_env (e : Event) (s : State) : (emit e s).env = s.env.react e := rfl
@[simp] theorem emit_freeCount (e : Event) (s : State) : (emit e s).freeCount = s.freeCount := rfl

/-! ### A response -/

@[simp] theorem respond_cfg (st : BitVec 4) (v : BitVec 16) (s : State) : (respond st v s).cfg = s.cfg := rfl
@[simp] theorem respond_fb (st : BitVec 4) (v : BitVec 16) (s : State) : (respond st v s).fb = s.fb := rfl
@[simp] theorem respond_rot (st : BitVec 4) (v : BitVec 16) (s : State) : (respond st v s).rot = s.rot := rfl
@[simp] theorem respond_aux (st : BitVec 4) (v : BitVec 16) (s : State) : (respond st v s).aux = s.aux := rfl
@[simp] theorem respond_fsm (st : BitVec 4) (v : BitVec 16) (s : State) : (respond st v s).fsm = s.fsm := rfl
@[simp] theorem respond_curI (st : BitVec 4) (v : BitVec 16) (s : State) : (respond st v s).curI = s.curI := rfl
@[simp] theorem respond_curJ (st : BitVec 4) (v : BitVec 16) (s : State) : (respond st v s).curJ = s.curJ := rfl
@[simp] theorem respond_session (st : BitVec 4) (v : BitVec 16) (s : State) : (respond st v s).session = s.session := rfl
@[simp] theorem respond_latch (st : BitVec 4) (v : BitVec 16) (s : State) : (respond st v s).latch = s.latch := rfl
@[simp] theorem respond_sck (st : BitVec 4) (v : BitVec 16) (s : State) : (respond st v s).sck = s.sck := rfl
@[simp] theorem respond_sdo (st : BitVec 4) (v : BitVec 16) (s : State) : (respond st v s).sdo = s.sdo := rfl
@[simp] theorem respond_fault (st : BitVec 4) (v : BitVec 16) (s : State) : (respond st v s).fault = s.fault := rfl
@[simp] theorem respond_rsp (st : BitVec 4) (v : BitVec 16) (s : State) : (respond st v s).rsp = some (rspWord st v) := rfl
@[simp] theorem respond_inputs (st : BitVec 4) (v : BitVec 16) (s : State) : (respond st v s).inputs = s.inputs := rfl
@[simp] theorem respond_trace (st : BitVec 4) (v : BitVec 16) (s : State) : (respond st v s).trace = s.trace ++ [.rsp (rspWord st v)] := rfl
@[simp] theorem respond_env (st : BitVec 4) (v : BitVec 16) (s : State) : (respond st v s).env = s.env := rfl
@[simp] theorem respond_freeCount (st : BitVec 4) (v : BitVec 16) (s : State) : (respond st v s).freeCount = s.freeCount := rfl

/-! ### An error -/

@[simp] theorem raise_cfg (c : ErrorCode) (s : State) : (raise c s).cfg = s.cfg := rfl
@[simp] theorem raise_fb (c : ErrorCode) (s : State) : (raise c s).fb = s.fb := rfl
@[simp] theorem raise_rot (c : ErrorCode) (s : State) : (raise c s).rot = s.rot := rfl
@[simp] theorem raise_aux (c : ErrorCode) (s : State) : (raise c s).aux = s.aux := rfl
@[simp] theorem raise_fsm (c : ErrorCode) (s : State) : (raise c s).fsm = s.fsm := rfl
@[simp] theorem raise_curI (c : ErrorCode) (s : State) : (raise c s).curI = s.curI := rfl
@[simp] theorem raise_curJ (c : ErrorCode) (s : State) : (raise c s).curJ = s.curJ := rfl
@[simp] theorem raise_session (c : ErrorCode) (s : State) : (raise c s).session = s.session := rfl
@[simp] theorem raise_latch (c : ErrorCode) (s : State) : (raise c s).latch = s.latch := rfl
@[simp] theorem raise_sck (c : ErrorCode) (s : State) : (raise c s).sck = s.sck := rfl
@[simp] theorem raise_sdo (c : ErrorCode) (s : State) : (raise c s).sdo = s.sdo := rfl
@[simp] theorem raise_fault (c : ErrorCode) (s : State) : (raise c s).fault = some (s.fault.getD c) := rfl
@[simp] theorem raise_rsp (c : ErrorCode) (s : State) : (raise c s).rsp = some (rspWord c.status 0) := rfl
@[simp] theorem raise_inputs (c : ErrorCode) (s : State) : (raise c s).inputs = s.inputs := rfl
@[simp] theorem raise_trace (c : ErrorCode) (s : State) : (raise c s).trace = s.trace ++ [.rsp (rspWord c.status 0)] := rfl
@[simp] theorem raise_env (c : ErrorCode) (s : State) : (raise c s).env = s.env := rfl
@[simp] theorem raise_freeCount (c : ErrorCode) (s : State) : (raise c s).freeCount = s.freeCount := rfl

/-! ### A port sample -/

@[simp] theorem takeSample_cfg (s : State) : (takeSample s).cfg = s.cfg := rfl
@[simp] theorem takeSample_fb (s : State) : (takeSample s).fb = s.fb := rfl
@[simp] theorem takeSample_rot (s : State) : (takeSample s).rot = s.rot := rfl
@[simp] theorem takeSample_aux (s : State) : (takeSample s).aux = s.aux := rfl
@[simp] theorem takeSample_fsm (s : State) : (takeSample s).fsm = s.fsm := rfl
@[simp] theorem takeSample_curI (s : State) : (takeSample s).curI = s.curI := rfl
@[simp] theorem takeSample_curJ (s : State) : (takeSample s).curJ = s.curJ := rfl
@[simp] theorem takeSample_session (s : State) : (takeSample s).session = s.session := rfl
@[simp] theorem takeSample_latch (s : State) : (takeSample s).latch = s.latch := rfl
@[simp] theorem takeSample_sck (s : State) : (takeSample s).sck = s.sck := rfl
@[simp] theorem takeSample_sdo (s : State) : (takeSample s).sdo = s.sdo := rfl
@[simp] theorem takeSample_fault (s : State) : (takeSample s).fault = s.fault := rfl
@[simp] theorem takeSample_rsp (s : State) : (takeSample s).rsp = none := rfl
@[simp] theorem takeSample_inputs (s : State) : (takeSample s).inputs = s.inputs.tail := rfl
@[simp] theorem takeSample_trace (s : State) : (takeSample s).trace = s.trace := rfl
@[simp] theorem takeSample_env (s : State) : (takeSample s).env = s.env := rfl
@[simp] theorem takeSample_freeCount (s : State) : (takeSample s).freeCount = s.freeCount := rfl

/-! ### The aux-clock enable -/

@[simp] theorem setAux_cfg (b : Bool) (s : State) : (setAux b s).cfg = s.cfg := by unfold setAux; split <;> simp_all
@[simp] theorem setAux_fb (b : Bool) (s : State) : (setAux b s).fb = s.fb := by unfold setAux; split <;> simp_all
@[simp] theorem setAux_rot (b : Bool) (s : State) : (setAux b s).rot = s.rot := by unfold setAux; split <;> simp_all
@[simp] theorem setAux_aux (b : Bool) (s : State) : (setAux b s).aux = b := by unfold setAux; split <;> simp_all
@[simp] theorem setAux_fsm (b : Bool) (s : State) : (setAux b s).fsm = s.fsm := by unfold setAux; split <;> simp_all
@[simp] theorem setAux_curI (b : Bool) (s : State) : (setAux b s).curI = s.curI := by unfold setAux; split <;> simp_all
@[simp] theorem setAux_curJ (b : Bool) (s : State) : (setAux b s).curJ = s.curJ := by unfold setAux; split <;> simp_all
@[simp] theorem setAux_session (b : Bool) (s : State) : (setAux b s).session = s.session := by unfold setAux; split <;> simp_all
@[simp] theorem setAux_latch (b : Bool) (s : State) : (setAux b s).latch = s.latch := by unfold setAux; split <;> simp_all
@[simp] theorem setAux_sck (b : Bool) (s : State) : (setAux b s).sck = s.sck := by unfold setAux; split <;> simp_all
@[simp] theorem setAux_sdo (b : Bool) (s : State) : (setAux b s).sdo = s.sdo := by unfold setAux; split <;> simp_all
@[simp] theorem setAux_fault (b : Bool) (s : State) : (setAux b s).fault = s.fault := by unfold setAux; split <;> simp_all
@[simp] theorem setAux_rsp (b : Bool) (s : State) : (setAux b s).rsp = s.rsp := by unfold setAux; split <;> simp_all
@[simp] theorem setAux_inputs (b : Bool) (s : State) : (setAux b s).inputs = s.inputs := by unfold setAux; split <;> simp_all
@[simp] theorem setAux_trace (b : Bool) (s : State) : (setAux b s).trace = if s.aux = b then s.trace else s.trace ++ [.enableOut b] := by unfold setAux; split <;> simp_all
@[simp] theorem setAux_env (b : Bool) (s : State) : (setAux b s).env = s.env := by unfold setAux; split <;> simp_all [Env.react]
@[simp] theorem setAux_freeCount (b : Bool) (s : State) : (setAux b s).freeCount = s.freeCount := by unfold setAux; split <;> simp_all

/-! ### The aux-clock enable at a reset -/

@[simp] theorem resetAux_cfg (s : State) : (resetAux s).cfg = s.cfg := by unfold resetAux; split <;> simp_all
@[simp] theorem resetAux_fb (s : State) : (resetAux s).fb = s.fb := by unfold resetAux; split <;> simp_all
@[simp] theorem resetAux_rot (s : State) : (resetAux s).rot = s.rot := by unfold resetAux; split <;> simp_all
@[simp] theorem resetAux_aux (s : State) : (resetAux s).aux = s.cfg.auxReset := by unfold resetAux; split <;> simp_all
@[simp] theorem resetAux_fsm (s : State) : (resetAux s).fsm = s.fsm := by unfold resetAux; split <;> simp_all
@[simp] theorem resetAux_curI (s : State) : (resetAux s).curI = s.curI := by unfold resetAux; split <;> simp_all
@[simp] theorem resetAux_curJ (s : State) : (resetAux s).curJ = s.curJ := by unfold resetAux; split <;> simp_all
@[simp] theorem resetAux_session (s : State) : (resetAux s).session = s.session := by unfold resetAux; split <;> simp_all
@[simp] theorem resetAux_latch (s : State) : (resetAux s).latch = s.latch := by unfold resetAux; split <;> simp_all
@[simp] theorem resetAux_sck (s : State) : (resetAux s).sck = s.sck := by unfold resetAux; split <;> simp_all
@[simp] theorem resetAux_sdo (s : State) : (resetAux s).sdo = s.sdo := by unfold resetAux; split <;> simp_all
@[simp] theorem resetAux_fault (s : State) : (resetAux s).fault = s.fault := by unfold resetAux; split <;> simp_all
@[simp] theorem resetAux_rsp (s : State) : (resetAux s).rsp = s.rsp := by unfold resetAux; split <;> simp_all
@[simp] theorem resetAux_inputs (s : State) : (resetAux s).inputs = s.inputs := by unfold resetAux; split <;> simp_all
@[simp] theorem resetAux_trace (s : State) : (resetAux s).trace = if s.aux = s.cfg.auxReset then s.trace else s.trace ++ [.enableOut s.cfg.auxReset] := by unfold resetAux; split <;> simp_all
@[simp] theorem resetAux_env (s : State) : (resetAux s).env = s.env := by unfold resetAux; split <;> simp_all [Env.react]
@[simp] theorem resetAux_freeCount (s : State) : (resetAux s).freeCount = s.freeCount := by unfold resetAux; split <;> simp_all

/-! ### A reset -/

@[simp] theorem resetBlock_cfg (s : State) : (resetBlock s).cfg = s.cfg := by simp [resetBlock]
@[simp] theorem resetBlock_fb (s : State) : (resetBlock s).fb = [] := by simp [resetBlock]
@[simp] theorem resetBlock_rot (s : State) : (resetBlock s).rot = .deg0 := by simp [resetBlock]
@[simp] theorem resetBlock_aux (s : State) : (resetBlock s).aux = s.cfg.auxReset := by simp [resetBlock]
@[simp] theorem resetBlock_fsm (s : State) : (resetBlock s).fsm = if s.cfg.legal then .idle else .cfgErr := by simp [resetBlock]
@[simp] theorem resetBlock_curI (s : State) : (resetBlock s).curI = 0 := by simp [resetBlock]
@[simp] theorem resetBlock_curJ (s : State) : (resetBlock s).curJ = 0 := by simp [resetBlock]
@[simp] theorem resetBlock_session (s : State) : (resetBlock s).session = false := by simp [resetBlock]
@[simp] theorem resetBlock_latch (s : State) : (resetBlock s).latch = false := by simp [resetBlock]
@[simp] theorem resetBlock_sck (s : State) : (resetBlock s).sck = false := by simp [resetBlock]
@[simp] theorem resetBlock_sdo (s : State) : (resetBlock s).sdo = Config.freeSdo s.freeCount := by simp [resetBlock]
@[simp] theorem resetBlock_fault (s : State) : (resetBlock s).fault = if s.cfg.legal then none else some .config := by simp [resetBlock]
@[simp] theorem resetBlock_rsp (s : State) : (resetBlock s).rsp = none := by simp [resetBlock]
@[simp] theorem resetBlock_inputs (s : State) : (resetBlock s).inputs = s.inputs := by simp [resetBlock]
@[simp] theorem resetBlock_trace (s : State) : (resetBlock s).trace = (if s.aux = s.cfg.auxReset then s.trace else s.trace ++ [.enableOut s.cfg.auxReset]) ++ [.reset] := by simp [resetBlock]
@[simp] theorem resetBlock_env (s : State) : (resetBlock s).env = { s.env with lvl := false } := by simp [resetBlock, Env.react]
@[simp] theorem resetBlock_freeCount (s : State) : (resetBlock s).freeCount = s.freeCount + 1 := by simp [resetBlock]

/-! ### The `OPEN` step -/

@[simp] theorem stepOpen_cfg (s : State) : (stepOpen s).cfg = s.cfg := rfl
@[simp] theorem stepOpen_fb (s : State) : (stepOpen s).fb = s.fb := rfl
@[simp] theorem stepOpen_rot (s : State) : (stepOpen s).rot = s.rot := rfl
@[simp] theorem stepOpen_aux (s : State) : (stepOpen s).aux = s.aux := rfl
@[simp] theorem stepOpen_fsm (s : State) : (stepOpen s).fsm = .latchLo := rfl
@[simp] theorem stepOpen_curI (s : State) : (stepOpen s).curI = s.curI := rfl
@[simp] theorem stepOpen_curJ (s : State) : (stepOpen s).curJ = s.curJ := rfl
@[simp] theorem stepOpen_session (s : State) : (stepOpen s).session = true := rfl
@[simp] theorem stepOpen_latch (s : State) : (stepOpen s).latch = s.latch := rfl
@[simp] theorem stepOpen_sck (s : State) : (stepOpen s).sck = s.sck := rfl
@[simp] theorem stepOpen_sdo (s : State) : (stepOpen s).sdo = s.sdo := rfl
@[simp] theorem stepOpen_fault (s : State) : (stepOpen s).fault = s.fault := rfl
@[simp] theorem stepOpen_rsp (s : State) : (stepOpen s).rsp = s.rsp := rfl
@[simp] theorem stepOpen_inputs (s : State) : (stepOpen s).inputs = s.inputs := rfl
@[simp] theorem stepOpen_trace (s : State) : (stepOpen s).trace = s.trace ++ [.sessionOpen] := rfl
@[simp] theorem stepOpen_env (s : State) : (stepOpen s).env = s.env := rfl
@[simp] theorem stepOpen_freeCount (s : State) : (stepOpen s).freeCount = s.freeCount := rfl

/-! ### The `LATCH_LO` step -/

@[simp] theorem stepLatchLo_cfg (s : State) : (stepLatchLo s).cfg = s.cfg := rfl
@[simp] theorem stepLatchLo_fb (s : State) : (stepLatchLo s).fb = s.fb := rfl
@[simp] theorem stepLatchLo_rot (s : State) : (stepLatchLo s).rot = s.rot := rfl
@[simp] theorem stepLatchLo_aux (s : State) : (stepLatchLo s).aux = s.aux := rfl
@[simp] theorem stepLatchLo_fsm (s : State) : (stepLatchLo s).fsm = .shift := rfl
@[simp] theorem stepLatchLo_curI (s : State) : (stepLatchLo s).curI = BitVec.ofNat 16 (s.cfg.byteCount - 1) := rfl
@[simp] theorem stepLatchLo_curJ (s : State) : (stepLatchLo s).curJ = 7 := rfl
@[simp] theorem stepLatchLo_session (s : State) : (stepLatchLo s).session = s.session := rfl
@[simp] theorem stepLatchLo_latch (s : State) : (stepLatchLo s).latch = false := rfl
@[simp] theorem stepLatchLo_sck (s : State) : (stepLatchLo s).sck = s.sck := rfl
@[simp] theorem stepLatchLo_sdo (s : State) : (stepLatchLo s).sdo = s.sdo := rfl
@[simp] theorem stepLatchLo_fault (s : State) : (stepLatchLo s).fault = s.fault := rfl
@[simp] theorem stepLatchLo_rsp (s : State) : (stepLatchLo s).rsp = s.rsp := rfl
@[simp] theorem stepLatchLo_inputs (s : State) : (stepLatchLo s).inputs = s.inputs := rfl
@[simp] theorem stepLatchLo_trace (s : State) : (stepLatchLo s).trace = s.trace ++ [.latch false] := rfl
@[simp] theorem stepLatchLo_env (s : State) : (stepLatchLo s).env = s.env.react (.latch false) := rfl
@[simp] theorem stepLatchLo_freeCount (s : State) : (stepLatchLo s).freeCount = s.freeCount := rfl

/-! ### The `LATCH_HI` step -/

@[simp] theorem stepLatchHi_cfg (s : State) : (stepLatchHi s).cfg = s.cfg := rfl
@[simp] theorem stepLatchHi_fb (s : State) : (stepLatchHi s).fb = s.fb := rfl
@[simp] theorem stepLatchHi_rot (s : State) : (stepLatchHi s).rot = s.rot := rfl
@[simp] theorem stepLatchHi_aux (s : State) : (stepLatchHi s).aux = s.aux := rfl
@[simp] theorem stepLatchHi_fsm (s : State) : (stepLatchHi s).fsm = .close := rfl
@[simp] theorem stepLatchHi_curI (s : State) : (stepLatchHi s).curI = s.curI := rfl
@[simp] theorem stepLatchHi_curJ (s : State) : (stepLatchHi s).curJ = s.curJ := rfl
@[simp] theorem stepLatchHi_session (s : State) : (stepLatchHi s).session = s.session := rfl
@[simp] theorem stepLatchHi_latch (s : State) : (stepLatchHi s).latch = true := rfl
@[simp] theorem stepLatchHi_sck (s : State) : (stepLatchHi s).sck = s.sck := rfl
@[simp] theorem stepLatchHi_sdo (s : State) : (stepLatchHi s).sdo = s.sdo := rfl
@[simp] theorem stepLatchHi_fault (s : State) : (stepLatchHi s).fault = s.fault := rfl
@[simp] theorem stepLatchHi_rsp (s : State) : (stepLatchHi s).rsp = s.rsp := rfl
@[simp] theorem stepLatchHi_inputs (s : State) : (stepLatchHi s).inputs = s.inputs := rfl
@[simp] theorem stepLatchHi_trace (s : State) : (stepLatchHi s).trace = s.trace ++ [.latch true] := rfl
@[simp] theorem stepLatchHi_env (s : State) : (stepLatchHi s).env = s.env.react (.latch true) := rfl
@[simp] theorem stepLatchHi_freeCount (s : State) : (stepLatchHi s).freeCount = s.freeCount := rfl

/-! ### The `CLOSE` step -/

@[simp] theorem stepClose_cfg (s : State) : (stepClose s).cfg = s.cfg := rfl
@[simp] theorem stepClose_fb (s : State) : (stepClose s).fb = s.fb := rfl
@[simp] theorem stepClose_rot (s : State) : (stepClose s).rot = s.rot := rfl
@[simp] theorem stepClose_aux (s : State) : (stepClose s).aux = s.aux := rfl
@[simp] theorem stepClose_fsm (s : State) : (stepClose s).fsm = .idle := rfl
@[simp] theorem stepClose_curI (s : State) : (stepClose s).curI = s.curI := rfl
@[simp] theorem stepClose_curJ (s : State) : (stepClose s).curJ = s.curJ := rfl
@[simp] theorem stepClose_session (s : State) : (stepClose s).session = false := rfl
@[simp] theorem stepClose_latch (s : State) : (stepClose s).latch = s.latch := rfl
@[simp] theorem stepClose_sck (s : State) : (stepClose s).sck = s.sck := rfl
@[simp] theorem stepClose_sdo (s : State) : (stepClose s).sdo = s.sdo := rfl
@[simp] theorem stepClose_fault (s : State) : (stepClose s).fault = s.fault := rfl
@[simp] theorem stepClose_rsp (s : State) : (stepClose s).rsp = some (rspWord statusOk 0) := rfl
@[simp] theorem stepClose_inputs (s : State) : (stepClose s).inputs = s.inputs := rfl
@[simp] theorem stepClose_trace (s : State) : (stepClose s).trace = s.trace ++ [.sessionClose] ++ [.rsp (rspWord statusOk 0)] := rfl
@[simp] theorem stepClose_env (s : State) : (stepClose s).env = s.env := rfl
@[simp] theorem stepClose_freeCount (s : State) : (stepClose s).freeCount = s.freeCount := rfl

/-! ### The cursor's advance -/

@[simp] theorem advanceCursor_cfg (s : State) : (advanceCursor s).cfg = s.cfg := by
  unfold advanceCursor; split_ifs <;> rfl
@[simp] theorem advanceCursor_fb (s : State) : (advanceCursor s).fb = s.fb := by
  unfold advanceCursor; split_ifs <;> rfl
@[simp] theorem advanceCursor_rot (s : State) : (advanceCursor s).rot = s.rot := by
  unfold advanceCursor; split_ifs <;> rfl
@[simp] theorem advanceCursor_aux (s : State) : (advanceCursor s).aux = s.aux := by
  unfold advanceCursor; split_ifs <;> rfl
@[simp] theorem advanceCursor_session (s : State) : (advanceCursor s).session = s.session := by
  unfold advanceCursor; split_ifs <;> rfl
@[simp] theorem advanceCursor_latch (s : State) : (advanceCursor s).latch = s.latch := by
  unfold advanceCursor; split_ifs <;> rfl
@[simp] theorem advanceCursor_sck (s : State) : (advanceCursor s).sck = s.sck := by
  unfold advanceCursor; split_ifs <;> rfl
@[simp] theorem advanceCursor_sdo (s : State) : (advanceCursor s).sdo = s.sdo := by
  unfold advanceCursor; split_ifs <;> rfl
@[simp] theorem advanceCursor_fault (s : State) : (advanceCursor s).fault = s.fault := by
  unfold advanceCursor; split_ifs <;> rfl
@[simp] theorem advanceCursor_rsp (s : State) : (advanceCursor s).rsp = s.rsp := by
  unfold advanceCursor; split_ifs <;> rfl
@[simp] theorem advanceCursor_inputs (s : State) : (advanceCursor s).inputs = s.inputs := by
  unfold advanceCursor; split_ifs <;> rfl
@[simp] theorem advanceCursor_trace (s : State) : (advanceCursor s).trace = s.trace := by
  unfold advanceCursor; split_ifs <;> rfl
@[simp] theorem advanceCursor_env (s : State) : (advanceCursor s).env = s.env := by
  unfold advanceCursor; split_ifs <;> rfl
@[simp] theorem advanceCursor_freeCount (s : State) : (advanceCursor s).freeCount = s.freeCount := by
  unfold advanceCursor; split_ifs <;> rfl

/-- Before the last bit the FSM stays in `SHIFT`, after it it goes on to `LATCH_HI` (R156). -/
theorem advanceCursor_fsm (s : State) :
    (advanceCursor s).fsm = if s.curJ = 0 ∧ s.curI = 0 then .latchHi else s.fsm := by
  unfold advanceCursor; split_ifs <;> simp_all

end Sys2Proof.Machine
end

