-- ==== Sys2Proof/Laws/Step.lean ====
section
/-! SUPPORT. What a shared operation, a command and a block step can do, said once each: a proof about a next state
cites these and unfolds none of them. -/

namespace Sys2Proof.Machine

/-! ### Busy and ready -/

theorem cmdReady_eq (s : State) : s.cmdReady = !s.busy := by
  unfold State.cmdReady State.busy; cases s.fsm <;> rfl

theorem busy_of_fsm_idle {s : State} (h : s.fsm = .idle) : s.busy = false := by simp [State.busy, h]

theorem busy_of_fsm_cfgErr {s : State} (h : s.fsm = .cfgErr) : s.busy = false := by simp [State.busy, h]

theorem busy_eq_false_iff (s : State) : s.busy = false ↔ s.fsm = .idle ∨ s.fsm = .cfgErr := by
  unfold State.busy; cases s.fsm <;> simp

/-! ### Accepting -/

theorem accepting_idle {s : State} (h : s.fsm = .idle) (o : Outcome State Fault Refusal) : accepting s o = o := by
  simp [accepting, h]

theorem accepting_cfgErr {s : State} (h : s.fsm = .cfgErr) (o : Outcome State Fault Refusal) :
    accepting s o = .next (raise .config s) := by
  simp [accepting, h]

theorem accepting_busy {s : State} (h : s.busy = true) (o : Outcome State Fault Refusal) : accepting s o = .next s := by
  unfold State.busy at h; unfold accepting; cases hf : s.fsm <;> simp_all

/-- Everything accepting can do (R84, R203). -/
theorem accepting_cases {s t : State} {o : Outcome State Fault Refusal} (h : accepting s o = .next t) :
    s.fsm = .idle ∧ o = .next t ∨ s.fsm = .cfgErr ∧ t = raise .config s ∨ s.busy = true ∧ t = s := by
  unfold accepting at h
  unfold State.busy
  cases hf : s.fsm <;> simp_all

/-! ### Commands -/

/-- Everything a command can do in `IDLE`: answer with the state otherwise as it was, write one bit inside the
framebuffer, fill it, rotate, switch the aux clock, start a flush, or report RANGE (R73). -/
theorem exec_idle_cases {i : Instr} {s t : State} (hs : s.fsm = .idle) (h : exec i s = .next t) :
    (∃ v, t = respond statusOk v s) ∨
    (∃ k b, (∃ x y, i = .setPixel x y b ∧ pixelTarget s x y = some k) ∧ k / 8 < s.cfg.byteCount ∧
      t = respond statusOk 0 { s with fb := s.fb.setBit k b }) ∨
    (∃ byteIndex bitOffset b, i = .setBit byteIndex bitOffset b ∧ byteIndex < s.cfg.byteCount ∧
      t = respond statusOk 0 { s with fb := s.fb.setBit (8 * byteIndex + bitOffset) b }) ∨
    (∃ b, i = .fill b ∧ t = respond statusOk 0 { s with fb := Memory.tabulate s.cfg.byteCount (fillByte b) }) ∨
    (∃ r, i = .setRot r ∧ t = respond statusOk 0 { s with rot := r }) ∨
    (∃ b, i = .auxClk b ∧ t = respond statusOk 0 (setAux b s)) ∨
    (i = .flush ∧ t = { s with fsm := .openSession }) ∨
    (∃ byteIndex bitOffset, (∃ b, i = .setBit byteIndex bitOffset b) ∨ i = .getBit byteIndex bitOffset) ∧
      t = raise .range s := by
  cases i with
  | setPixel x y b =>
    rw [exec, execSetPixel, accepting_idle hs] at h
    cases hk : pixelTarget s x y with
    | none => simp only [hk] at h; cases h; exact .inl ⟨0, rfl⟩
    | some k =>
      simp only [hk] at h
      split_ifs at h with hlt
      cases h; exact .inr (.inl ⟨k, b, ⟨x, y, rfl, hk⟩, hlt, rfl⟩)
  | getPixel x y =>
    rw [exec, execGetPixel, accepting_idle hs] at h
    cases hk : pixelTarget s x y with
    | none => simp only [hk] at h; cases h; exact .inl ⟨_, rfl⟩
    | some k =>
      simp only [hk] at h
      split_ifs at h with hlt
      cases h; exact .inl ⟨_, rfl⟩
  | fill b => rw [exec, execFill, accepting_idle hs] at h; cases h; exact .inr (.inr (.inr (.inl ⟨b, rfl, rfl⟩)))
  | setBit byteIndex bitOffset b =>
    rw [exec, execSetBit, accepting_idle hs, bitTarget] at h
    split_ifs at h with hlt
    · cases h; exact .inr (.inr (.inl ⟨byteIndex, bitOffset, b, rfl, hlt, rfl⟩))
    · cases h; exact .inr (.inr (.inr (.inr (.inr (.inr (.inr ⟨⟨byteIndex, bitOffset, .inl ⟨b, rfl⟩⟩, rfl⟩))))))
  | getBit byteIndex bitOffset =>
    rw [exec, execGetBit, accepting_idle hs, bitTarget] at h
    split_ifs at h with hlt
    · cases h; exact .inl ⟨_, rfl⟩
    · cases h; exact .inr (.inr (.inr (.inr (.inr (.inr (.inr ⟨⟨byteIndex, bitOffset, .inr rfl⟩, rfl⟩))))))
  | setRot r =>
    rw [exec, execSetRot, accepting_idle hs] at h; cases h
    exact .inr (.inr (.inr (.inr (.inl ⟨r, rfl, rfl⟩))))
  | getWidth => rw [exec, execGetWidth, accepting_idle hs] at h; cases h; exact .inl ⟨_, rfl⟩
  | getHeight => rw [exec, execGetHeight, accepting_idle hs] at h; cases h; exact .inl ⟨_, rfl⟩
  | flush =>
    rw [exec, execFlush, accepting_idle hs] at h; cases h
    exact .inr (.inr (.inr (.inr (.inr (.inr (.inl ⟨rfl, rfl⟩))))))
  | auxClk b =>
    rw [exec, execAuxClk, accepting_idle hs] at h; cases h
    exact .inr (.inr (.inr (.inr (.inr (.inl ⟨b, rfl, rfl⟩)))))

/-- In `CFGERR` every command is answered CONFIG (R203). -/
theorem exec_cfgErr {s : State} (hs : s.fsm = .cfgErr) (i : Instr) : exec i s = .next (raise .config s) := by
  cases i <;> exact accepting_cfgErr hs _

/-- While the flush FSM runs every command is held (R84). -/
theorem exec_busy {s : State} (hs : s.busy = true) (i : Instr) : exec i s = .next s := by
  cases i <;> exact accepting_busy hs _

/-- What the step of an accepted word can do: a decoded command's effect, or ILLEGAL (R76, R202). -/
theorem commandStep_cases {w : CmdWord} {s t : State} (h : commandStep w s = .next t) :
    (∃ i, decode w = .ok i ∧ exec i s = .next t) ∨ (∃ r, decode w = .error r) ∧ acceptIllegal s = .next t := by
  unfold commandStep at h
  cases hd : decode w with
  | ok i => simp only [hd] at h; exact .inl ⟨i, rfl, h⟩
  | error r => simp only [hd] at h; exact .inr ⟨⟨r, rfl⟩, h⟩

/-! ### The flush FSM -/

/-- Everything one step of the flush FSM can do (R152). -/
theorem fsmStep_cases {s t : State} (h : fsmStep s = .next t) :
    (s.fsm = .idle ∨ s.fsm = .cfgErr) ∧ t = s ∨
    s.fsm = .openSession ∧ t = stepOpen s ∨
    s.fsm = .latchLo ∧ t = stepLatchLo s ∨
    s.fsm = .shift ∧ s.curI.toNat < s.cfg.byteCount ∧
      t = advanceCursor (emit (.bit (s.fb.bit s.cursor)) { s with sdo := s.fb.bit s.cursor, sck := false }) ∨
    s.fsm = .latchHi ∧ t = stepLatchHi s ∨
    s.fsm = .close ∧ t = stepClose s := by
  unfold fsmStep at h
  cases hf : s.fsm <;> simp only [hf] at h
  case shift =>
    unfold stepShift at h
    split_ifs at h with hlt
    cases h; simp [hlt, hf]
  all_goals cases h; simp

/-! ### The block step -/

/-- Everything a block step can do (R13). -/
theorem step_cases {s t : State} (h : step s = .next t) :
    (presented s).rst = true ∧ t = resetBlock (takeSample s) ∨
    (presented s).rst = false ∧ s.busy = true ∧ fsmStep (takeSample s) = .next t ∨
    (presented s).rst = false ∧ s.busy = false ∧ (presented s).cmdValid = true ∧
      commandStep (presented s).cmdData (takeSample s) = .next t ∨
    (presented s).rst = false ∧ s.busy = false ∧ (presented s).cmdValid = false ∧ t = takeSample s := by
  unfold step at h
  split_ifs at h with h1 h2 h3
  · cases h; exact .inl ⟨h1, rfl⟩
  · exact .inr (.inl ⟨by simpa using h1, h2, h⟩)
  · exact .inr (.inr (.inl ⟨by simpa using h1, by simpa using h2, h3, h⟩))
  · cases h; exact .inr (.inr (.inr ⟨by simpa using h1, by simpa using h2, by simpa using h3, rfl⟩))

/-! ### Runs -/

/-- A run goes on from the next state. -/
theorem run_of_next (M : Host.Core) {s t : M.State} (h : M.step s = .next t) (n : Nat) : M.run (n + 1) s = M.run n t := by
  rw [Host.Core.run, h]

/-- A run of this machine goes on from the next state. -/
theorem run_of_step {s t : State} (h : step s = .next t) (n : Nat) :
    Host.Core.run Sys2Proof.core (n + 1) s = Host.Core.run Sys2Proof.core n t :=
  run_of_next Sys2Proof.core h n

/-- A run that reaches a state goes on from it. -/
theorem run_append (M : Host.Core) (m n : Nat) {s t : M.State} (h : M.run m s = .next t) :
    M.run (m + n) s = M.run n t := by
  induction m generalizing s with
  | zero => cases h; rw [Nat.zero_add]
  | succ m ih =>
    rw [Nat.succ_add]
    cases hs : M.step s with
    | next s' => rw [run_of_next M hs] at h ⊢; exact ih h
    | fault r => rw [Host.Core.run, hs] at h; cases h
    | refused r => rw [Host.Core.run, hs] at h; cases h

end Sys2Proof.Machine
end

