-- ==== Sys2Proof/Tests/Slice0.lean ====
section
/-! SUPPORT. Tests of the model on fixed values, each expected result taken from the spec (95_test_vectors.md, or the
rule named), and one witness for each statement that has hypotheses. -/

namespace Sys2Proof.Machine

/-! ### Small states -/

/-- A 29/10/1 block at rest, with a clear chain. -/
def atRest : State :=
  { State.powerOn Config.singlePanel29 with
    sdo := false
    env := { chain := List.replicate 800 false, visible := List.replicate 800 false, lvl := false } }

/-- `atRest` with the framebuffer `m`. -/
def holding (m : Memory) : State := { atRest with fb := m }

/-- A state at which the host presents the word `w`. -/
def presenting (w : CmdWord) (s : State) : State :=
  { s with inputs := [{ rst := false, cmdValid := true, cmdData := w }] }

/-- A state at which the host asserts reset, a FILL word on the command port. -/
def resetting (s : State) : State :=
  { s with inputs := [{ rst := true, cmdValid := true, cmdData := 0x0000000000000013 }] }

/-- A 30-pixel build, which R7 forbids. -/
def badBuild : State := { State.powerOn { pw := 30, rph := 10, pc := 1 } with sdo := false }

/-- What `f` sees in the next state, none if there is no next state. -/
def after {α : Type} (o : Outcome State Fault Refusal) (f : State → α) : Option α :=
  match o with
  | .next t => some (f t)
  | .fault _ => none
  | .refused _ => none

/-- The next state's response and fault record. -/
def answer (o : Outcome State Fault Refusal) : Option (Option RspWord × Option ErrorCode) :=
  after o fun t => (t.rsp, t.fault)

/-! ### WellFormed: each check refuses (R78) -/

theorem test_wf_accepts_bounds :
    [Instr.setPixel (-32768) 32767 true, .getPixel 32767 (-32768), .setBit 65535 7 true, .getBit 0 0].all Instr.wf =
      true := by decide

theorem test_wf_refuses_setPixel_x : [Instr.setPixel (-32769) 0 true, .setPixel 32768 0 true].any Instr.wf = false := by
  decide

theorem test_wf_refuses_setPixel_y : [Instr.setPixel 0 (-32769) true, .setPixel 0 32768 true].any Instr.wf = false := by
  decide

theorem test_wf_refuses_getPixel_x : [Instr.getPixel (-32769) 0, .getPixel 32768 0].any Instr.wf = false := by decide

theorem test_wf_refuses_getPixel_y : [Instr.getPixel 0 (-32769), .getPixel 0 32768].any Instr.wf = false := by decide

theorem test_wf_refuses_byteIndex : [Instr.setBit 65536 0 true, .getBit 65536 0].any Instr.wf = false := by decide

theorem test_wf_refuses_bitOffset : [Instr.setBit 0 8 true, .getBit 0 8].any Instr.wf = false := by decide

/-! ### Decode: words written out from R70 to R73 (95_test_vectors.md, 2.6) -/

theorem test_decode_setPixel :
    decode 0x0000000000000011 = .ok (.setPixel 0 0 true) ∧ decode 0x00000000FFFF0011 = .ok (.setPixel (-1) 0 true) ∧
    decode 0x00000017001C0001 = .ok (.setPixel 28 23 false) ∧
    decode 0x0000800080000011 = .ok (.setPixel (-32768) (-32768) true) := by decide

theorem test_decode_getPixel :
    decode 0x00000017001C0002 = .ok (.getPixel 28 23) ∧ decode 0x0000FFFF7FFF0002 = .ok (.getPixel 32767 (-1)) := by
  decide

theorem test_decode_fill :
    decode 0x0000000000000003 = .ok (.fill false) ∧ decode 0x0000000000000013 = .ok (.fill true) := by decide

theorem test_decode_setBit :
    decode 0x0000000700630014 = .ok (.setBit 99 7 true) ∧ decode 0x00000000FFFF0004 = .ok (.setBit 65535 0 false) := by
  decide

theorem test_decode_getBit :
    decode 0x0000000200000005 = .ok (.getBit 0 2) ∧ decode 0x0000000400610005 = .ok (.getBit 97 4) := by decide

theorem test_decode_setRot :
    decode 0x0000000000000006 = .ok (.setRot .deg0) ∧ decode 0x0000000000000106 = .ok (.setRot .deg90) ∧
    decode 0x0000000000000206 = .ok (.setRot .deg180) ∧ decode 0x0000000000000306 = .ok (.setRot .deg270) := by decide

theorem test_decode_queries :
    decode 0x0000000000000007 = .ok .getWidth ∧ decode 0x0000000000000008 = .ok .getHeight ∧
    decode 0x0000000000000009 = .ok .flush := by decide

theorem test_decode_auxClk :
    decode 0x000000000000000A = .ok (.auxClk false) ∧ decode 0x000000000000001A = .ok (.auxClk true) := by decide

theorem test_decode_reserved :
    decode 0x0000000000000000 = .error (.reservedOpcode 0x0) ∧ decode 0x000000000000000B = .error (.reservedOpcode 0xB) ∧
    decode 0x000000000000000F = .error (.reservedOpcode 0xF) := by decide

theorem test_decode_mustBeZero :
    [(0x0000000000000033 : CmdWord), 0x0000000000010013, 0x0000000000000012, 0x0000000000000111, 0x0001000000000011,
      0x0000000800000014, 0x0000000800640014, 0x0000000000000116, 0x8000000000000009, 0x0000000000000017].map
        (fun w => decode w) =
      [.error (.mustBeZero 3), .error (.mustBeZero 3), .error (.mustBeZero 2), .error (.mustBeZero 1),
       .error (.mustBeZero 1), .error (.mustBeZero 4), .error (.mustBeZero 4), .error (.mustBeZero 6),
       .error (.mustBeZero 9), .error (.mustBeZero 7)] := by decide

/-- A row's mask is its opcode field and its format's must-be-zero bits (R71, R76). -/
theorem test_rows_agree_with_formats :
    opTable.all (fun row => row.mask == (row.format.mustBeZero ||| 0xF)) = true := by decide

theorem test_encode_setPixel : encode (.setPixel (-1) 0 true) = 0x00000000FFFF0011 := by decide

theorem test_encode_setBit : encode (.setBit 99 7 true) = 0x0000000700630014 := by decide

/-! ### The assembler's text (R78, R79) -/

theorem test_assemble_setPixel :
    assembleLine "SETPIXEL -1, 0x17, 1 ; a comment".toList = .ok (.setPixel (-1) 23 true) := by decide

theorem test_assemble_setRot : assembleLine "SETROT R270".toList = .ok (.setRot .deg270) := by decide

theorem test_assemble_pixOn : assembleLine "PIXON 28, 23".toList = .ok (.setPixel 28 23 true) := by decide

theorem test_assemble_range :
    assembleLine "SETBIT 65536, 0, 1".toList = .error .outOfRange ∧ assembleLine "SETROT 4".toList = .error .outOfRange := by
  decide

/-! ### The Addressing Engine (95_test_vectors.md, 2.1) -/

/-- The bit indices of some coordinates. -/
def indices (c : Config) (r : Rotation) (coordinates : List (Int × Int)) : List (Option Nat) :=
  coordinates.map fun p => bitIndex c r p.1 p.2

theorem test_bitIndex_deg0 :
    indices Config.singlePanel29 .deg0
      [(0, 0), (2, 0), (3, 0), (28, 0), (0, 5), (0, 6), (0, 11), (0, 12), (0, 17), (0, 18), (28, 12), (28, 23), (14, 17),
       (-1, 0), (0, -1), (29, 0), (0, 24)] =
      [some 8, some 32, some 48, some 380, some 13, some 7, some 2, some 774, some 779, some 785, some 402, some 408,
       some 591, none, none, none, none] := by decide

theorem test_bitIndex_rotated :
    indices Config.singlePanel29 .deg90 [(0, 0), (23, 0), (0, 28), (5, 10), (24, 0), (0, 29)] =
      [some 380, some 408, some 8, some 253, none, none] ∧
    indices Config.singlePanel29 .deg180 [(0, 0), (28, 23), (5, 10), (29, 23)] = [some 408, some 8, some 467, none] ∧
    indices Config.singlePanel29 .deg270 [(0, 0), (23, 0), (23, 28), (5, 10), (23, 29)] =
      [some 780, some 8, some 380, some 653, none] := by decide

theorem test_bitIndex_two_panels :
    indices { pw := 29, rph := 10, pc := 2 } .deg0 [(28, 0), (29, 0), (57, 0), (0, 12), (29, 12), (57, 23), (58, 0)] =
      [some 380, some 408, some 780, some 1574, some 1174, some 808, none] := by decide

theorem test_bitIndex_39 :
    indices { pw := 39, rph := 13, pc := 1 } .deg0 [(38, 0), (38, 11), (0, 12), (38, 23), (20, 6), (39, 0)] =
      [some 512, some 506, some 1026, some 528, some 271, none] := by decide

/-- R117: the inverse of the two rows worked by hand. -/
theorem test_pixelOf :
    pixelOf Config.singlePanel29 591 = (14, 17) ∧ pixelOf Config.singlePanel29 253 = (18, 5) := by decide

/-- R131: bit 386 of 29/10/1 is a blank-column bit, 798 a guard bit, 408 a pixel bit. -/
theorem test_bit_classes :
    blankColumnBit Config.singlePanel29 386 = true ∧ guardBit 798 = true ∧ pixelBit Config.singlePanel29 408 = true ∧
    pixelBit Config.singlePanel29 386 = false ∧ pixelBit Config.singlePanel29 798 = false := by decide

theorem test_shownPixel :
    shownPixel { atRest with env := { atRest.env with visible := (List.replicate 800 false).set 408 true } } 28 23 =
      some true := by decide

/-! ### One step of each command (95_test_vectors.md, 2.2 to 2.9) -/

theorem test_setPixel_sets :
    after (step (presenting 0x0000000000000011 atRest)) (fun t => (t.fb, t.rsp)) = some ([(1, 0x01)], some 0x00000000) := by
  decide

theorem test_setPixel_clears :
    after (exec (.setPixel 0 0 false) (holding [(1, 0x01)])) (·.fb) = some [] := by decide

theorem test_getPixel_opaque : answer (exec (.getPixel 28 23) (holding [(51, 0xFF)])) = some (some 0x00030000, none) := by
  decide

theorem test_getPixel_out : answer (exec (.getPixel 0 24) (holding [(51, 0xFF)])) = some (some 0x00000000, none) := by
  decide

theorem test_fill_pattern :
    after (exec (.fill true) (holding [(0, 0x01)])) (fun t => [0, 1, 4, 5, 97, 99, 100].map t.fb.read) =
      some [0xFC, 0xFF, 0x3F, 0xFC, 0xFF, 0x3F, 0x00] := by decide

theorem test_fill_clear : after (exec (.fill false) (holding [(0, 0x01), (99, 0x80)])) (·.fb) = some [] := by decide

theorem test_setBit_last : after (exec (.setBit 99 7 true) atRest) (·.fb) = some [(99, 0x80)] := by decide

theorem test_setBit_range :
    after (exec (.setBit 100 0 true) atRest) (fun t => (t.fb, t.rsp, t.fault)) =
      some ([], some 0x00000002, some .range) := by decide

theorem test_getBit : answer (exec (.getBit 99 7) (holding [(99, 0x80)])) = some (some 0x00010000, none) := by decide

theorem test_getBit_range : answer (exec (.getBit 65535 0) atRest) = some (some 0x00000002, some .range) := by decide

theorem test_setRot :
    after (exec (.setRot .deg270) (holding [(1, 0x01)])) (fun t => (t.rot, t.fb)) = some (.deg270, [(1, 0x01)]) := by
  decide

theorem test_getWidth :
    answer (exec .getWidth atRest) = some (some 0x001D0000, none) ∧
    answer (exec .getWidth { atRest with rot := .deg90 }) = some (some 0x00180000, none) := by decide

theorem test_getHeight :
    answer (exec .getHeight atRest) = some (some 0x00180000, none) ∧
    answer (exec .getHeight { atRest with rot := .deg270 }) = some (some 0x001D0000, none) := by decide

theorem test_flush_starts :
    after (exec .flush atRest) (fun t => (t.fsm, t.rsp, t.busy, t.cmdReady)) = some (.openSession, none, true, false) := by
  decide

theorem test_auxClk :
    after (exec (.auxClk true) atRest) (fun t => (t.aux, t.trace)) =
      some (true, [.enableOut true, .rsp 0x00000000]) := by decide

theorem test_auxClk_unchanged : after (exec (.auxClk false) atRest) (·.trace) = some [.rsp 0x00000000] := by decide

theorem test_illegal_before_range :
    answer (step (presenting 0x0000000800640014 atRest)) = some (some 0x00000001, some .illegal) := by decide

theorem test_first_fault_kept :
    answer (step (presenting 0x000000000000000F { atRest with fault := some .range })) =
      some (some 0x00000001, some .range) := by decide

theorem test_config_before_illegal :
    answer (step (presenting 0x000000000000000F badBuild)) = some (some 0x00000003, some .config) := by decide

theorem test_reset_switches_aux_back :
    after (step (resetting { atRest with aux := true, fb := [(1, 0x01)] })) (fun t => (t.fb, t.aux, t.trace)) =
      some ([], false, [.enableOut false, .reset]) := by decide

theorem test_shift_sends_the_top_bit_first :
    after (step { holding [(99, 0x80)] with
          fsm := .shift, curI := 99, curJ := 7, env := { chain := [false, false], visible := [false, false], lvl := false } })
        (fun t => (t.trace, t.curI, t.curJ, t.env.chain)) =
      some ([.bit true], 99, 6, [true, false]) := by decide

theorem test_shift_ends :
    after (step { holding [(0, 0x01)] with fsm := .shift, session := true, curI := 0, curJ := 0 })
        (fun t => (t.trace, t.fsm)) = some ([.bit true], .latchHi) := by decide

/-! ### States of the invariant -/

/-- A block in `OPEN`. -/
def opening : State := { atRest with fsm := .openSession }

/-- A block in `LATCH_HI`, all bits sent. -/
def rising : State := { atRest with fsm := .latchHi, session := true }

/-- A block in `CLOSE`, the clear frame presented. -/
def closing : State :=
  { atRest with fsm := .close, session := true, latch := true, env := { atRest.env with lvl := true } }

theorem test_bit_nil (k : Nat) : Memory.bit [] k = false := by simp [Memory.bit]

theorem test_replicate (k : Nat) (h : k < 800) : (List.replicate 800 false)[k]? = some (Memory.bit [] k) := by
  rw [test_bit_nil, List.getElem?_replicate, if_pos h]

theorem test_atRest_inv : atRest.Inv where
  fbForm := Memory.wf_nil
  fbInside := fun _ h => absurd h List.not_mem_nil
  cfgErrIff := by decide
  configFault := by decide
  cfgErrQuiet := by decide
  sessionLevel := rfl
  latchLow := by decide
  latchHigh := by decide
  sckLow := rfl
  cursorInside := by decide
  chainLength := List.length_replicate
  visibleLength := List.length_replicate
  levelSeen := rfl
  staged := fun h => absurd h (by decide)
  stagedWhole := fun h => absurd h (by decide)
  presentedWhole := fun h => absurd h (by decide)

theorem test_closing_inv : closing.Inv where
  fbForm := Memory.wf_nil
  fbInside := fun _ h => absurd h List.not_mem_nil
  cfgErrIff := by decide
  configFault := by decide
  cfgErrQuiet := by decide
  sessionLevel := rfl
  latchLow := by decide
  latchHigh := by decide
  sckLow := rfl
  cursorInside := by decide
  chainLength := List.length_replicate
  visibleLength := List.length_replicate
  levelSeen := rfl
  staged := fun h => absurd h (by decide)
  stagedWhole := fun h => absurd h (by decide)
  presentedWhole := fun _ => test_replicate

theorem test_badBuild_inv : badBuild.Inv where
  fbForm := Memory.wf_nil
  fbInside := fun _ h => absurd h List.not_mem_nil
  cfgErrIff := by decide
  configFault := by decide
  cfgErrQuiet := by decide
  sessionLevel := rfl
  latchLow := by decide
  latchHigh := by decide
  sckLow := rfl
  cursorInside := by decide
  chainLength := by simp [badBuild, State.powerOn, powerUpEnv]
  visibleLength := by simp [badBuild, State.powerOn, powerUpEnv]
  levelSeen := rfl
  staged := fun h => absurd h (by decide)
  stagedWhole := fun h => absurd h (by decide)
  presentedWhole := fun h => absurd h (by decide)

/-- What the host presents makes no difference to the invariant. -/
theorem test_inv_inputs {s : State} (h : s.Inv) (inputs : List PortSample) : ({ s with inputs := inputs } : State).Inv := by
  cases h; constructor <;> assumption

/-! ### Witnesses: for each statement with hypotheses, values that meet them together -/

theorem witness_DecodeOfEncode : (Instr.setPixel (-32768) 32767 true).wf = true ∧ (Instr.setBit 65535 7 false).wf = true := by
  decide

theorem witness_EncodeOfDecode : decode 0x0000000700630014 = .ok (.setBit 99 7 true) := by decide

theorem witness_DecodePicksTheMatchingRow :
    rowFill ∈ opTable ∧ (0x13 : CmdWord) &&& rowFill.mask = rowFill.pattern ∧
    ∀ row ∈ opTable, (0x0 : CmdWord) &&& row.mask ≠ row.pattern := by
  refine ⟨?_, by decide, by decide⟩
  simp [opTable]

/-- Both ends of the reserved range, and opcode 0x0. -/
theorem witness_ReservedOpcodesAnswerIllegal :
    [(0x0 : CmdWord), 0xB, 0xF].all (fun w =>
      (presenting w atRest).fsm == .idle && !(presented (presenting w atRest)).rst &&
      (presented (presenting w atRest)).cmdValid && (w.extractLsb' 0 4 == 0x0#4 || (0xB#4).ule (w.extractLsb' 0 4))) =
      true := by decide

theorem witness_MustBeZeroBitsAnswerIllegal :
    rowSetBit ∈ opTable ∧ (presenting 0x0000000800640014 atRest).fsm = .idle ∧
    commandPresented (presenting 0x0000000800640014 atRest) ∧
    (0x0000000800640014 : CmdWord).extractLsb' 0 4 = rowSetBit.pattern.extractLsb' 0 4 ∧
    (0x0000000800640014 : CmdWord) &&& rowSetBit.format.mustBeZero ≠ 0 := by
  refine ⟨?_, by decide, ⟨rfl, rfl⟩, by decide, by decide⟩
  simp [opTable]

theorem witness_AssembledLinesHaveWords : assembleLine "FLUSH".toList = .ok .flush := by decide

/-- The smallest and the largest build of each panel width. -/
theorem witness_LegalGeometryFits :
    [({ pw := 29, rph := 10, pc := 1 } : Config), { pw := 29, rph := 10, pc := 255 }, { pw := 39, rph := 13, pc := 1 },
      { pw := 39, rph := 25, pc := 255 }].all Config.legal = true := by decide

theorem witness_BitIndexInsideFramebuffer :
    Config.singlePanel29.legal = true ∧ bitIndex Config.singlePanel29 .deg0 0 18 = some 785 := by decide

theorem witness_BitIndexOneToOne :
    Config.singlePanel29.legal = true ∧ bitIndex Config.singlePanel29 .deg0 28 23 = some 408 ∧
    bitIndex Config.singlePanel29 .deg180 0 0 = some 408 := by decide

theorem witness_BitIndexProducesExactlyThePixelBits :
    Config.singlePanel29.legal = true ∧ pixelBit Config.singlePanel29 2 = true ∧
    pixelBit Config.singlePanel29 785 = true := by decide

theorem witness_SlotsAndGuardBits :
    Config.singlePanel29.legal = true ∧ 1 < 2 ∧ 0 < Config.singlePanel29.pc ∧ 9 < Config.singlePanel29.rph ∧ 2 < 3 ∧
    11 < 12 ∧ slotIndex Config.singlePanel29 1 0 9 2 11 = 797 ∧ 797 < Config.singlePanel29.bitCount ∧
    guardBit 797 = false := by decide

theorem witness_InverseMapping :
    Config.singlePanel29.legal = true ∧ 0 < Config.singlePanel29.pc ∧ 9 < Config.singlePanel29.rph ∧
    3 * 9 + 1 < Config.singlePanel29.pw ∧ slotIndex Config.singlePanel29 1 0 9 1 11 = 785 := by decide

theorem witness_SetPixelWritesOneBit :
    atRest.fsm = .idle ∧ atRest.cfg.legal = true ∧ atRest.fb.wf ∧ bitIndex atRest.cfg atRest.rot 28 23 = some 408 :=
  ⟨rfl, by decide, Memory.wf_nil, by decide⟩

/-- One coordinate for each of the four ways out of bounds. -/
theorem witness_SetPixelOutOfBoundsIsIgnored :
    atRest.fsm = .idle ∧ (-1 : Int) < 0 ∧ (rotatedWidth atRest.cfg atRest.rot : Int) ≤ 29 ∧
    (rotatedHeight atRest.cfg atRest.rot : Int) ≤ 24 := by decide

theorem witness_GetPixelReadsOneBit :
    atRest.fsm = .idle ∧ atRest.cfg.legal = true ∧ bitIndex atRest.cfg atRest.rot 28 23 = some 408 ∧
    bitIndex atRest.cfg atRest.rot 29 0 = none := by decide

theorem witness_ReadAfterWriteReturnsTheState :
    atRest.fsm = .idle ∧ atRest.cfg.legal = true ∧ atRest.fb.wf ∧ bitIndex atRest.cfg atRest.rot 0 0 = some 8 ∧
    99 < atRest.cfg.byteCount ∧ 7 ≤ 7 :=
  ⟨rfl, by decide, Memory.wf_nil, by decide, by decide, le_refl 7⟩

theorem witness_SetRotWritesTheRotation : atRest.fsm = .idle := rfl

theorem witness_SizeQueriesAnswerTheRotatedSize : atRest.fsm = .idle ∧ atRest.cfg.legal = true := by decide

/-- A state whose cells all lie inside, and the first and the last byte. -/
theorem witness_FillWritesEveryByte :
    (holding [(99, 0x80)]).fsm = .idle ∧ 0 < atRest.cfg.byteCount ∧ 99 < atRest.cfg.byteCount ∧
    (∀ p ∈ (holding [(99, 0x80)]).fb, p.1 < atRest.cfg.byteCount) ∧ atRest.cfg.byteCount ≤ 100 := by decide

/-- A bit of each class. -/
theorem witness_FillByBitClass :
    atRest.fsm = .idle ∧ 799 < atRest.cfg.bitCount ∧ pixelBit atRest.cfg 2 = true ∧ guardBit 799 = true ∧
    blankColumnBit atRest.cfg 797 = true := by decide

theorem witness_FillIsIdempotent : (holding [(0, 0x01)]).fsm = .idle := rfl

theorem witness_SetBitWritesOneBit :
    atRest.fsm = .idle ∧ atRest.fb.wf ∧ 99 < atRest.cfg.byteCount ∧ 7 ≤ 7 :=
  ⟨rfl, Memory.wf_nil, by decide, le_refl 7⟩

theorem witness_GetBitReadsOneBit : atRest.fsm = .idle ∧ 99 < atRest.cfg.byteCount ∧ 7 ≤ 7 := by decide

theorem witness_BitAccessOutOfRangeAnswersRange : atRest.fsm = .idle ∧ atRest.cfg.byteCount ≤ 100 := by decide

theorem witness_AuxClkSwitchesTheEnable : atRest.fsm = .idle := rfl

theorem witness_FlushStartsTheFsm : atRest.fsm = .idle := rfl

theorem witness_OpenStep : opening.fsm = .openSession ∧ (presented opening).rst = false := by decide

theorem witness_LatchLowStep :
    ({ atRest with fsm := .latchLo } : State).fsm = .latchLo ∧ atRest.cfg.legal = true ∧ (presented atRest).rst = false := by
  decide

/-- The first bit, the last bit of a byte and the last bit of all. -/
theorem witness_ShiftStep :
    [((99 : BitVec 16), (7 : BitVec 3)), (99, 0), (0, 0)].all (fun cursor =>
      cursor.1.toNat < ({ atRest with fsm := .shift, curI := cursor.1, curJ := cursor.2 } : State).cfg.byteCount &&
      !(presented { atRest with fsm := .shift, curI := cursor.1, curJ := cursor.2 }).rst) = true := by decide

theorem witness_LatchHighStep : rising.fsm = .latchHi ∧ (presented rising).rst = false ∧ rising.env.lvl = false := by
  decide

theorem witness_CloseStep : closing.fsm = .close ∧ (presented closing).rst = false := by decide

theorem witness_FlushPresentsTheFrame :
    (presenting 0x0000000000000009 atRest).Inv ∧ (presenting 0x0000000000000009 atRest).fsm = .idle ∧
    commandPresented (presenting 0x0000000000000009 atRest) ∧
    decode (presented (presenting 0x0000000000000009 atRest)).cmdData = .ok .flush ∧
    ∀ p ∈ (presenting 0x0000000000000009 atRest).inputs.take (atRest.cfg.bitCount + 5), p.rst = false :=
  ⟨test_inv_inputs test_atRest_inv _, rfl, ⟨rfl, rfl⟩, by decide, by decide⟩

theorem witness_ChainReactsToEvents :
    0 < ({ chain := [false, true], visible := [false, false], lvl := false } : Env).chain.length ∧
    1 < ({ chain := [false, true], visible := [false, false], lvl := false } : Env).chain.length := by decide

theorem witness_DisplayChangesOnlyAtLatchHigh :
    after (step { rising with env := { chain := [true], visible := [false], lvl := false } }) (·.env.visible) =
      some [true] := by decide

theorem witness_CommandsLeaveTheSerialLines :
    (presenting 0x0000000000000011 atRest).busy = false ∧ (presented (presenting 0x0000000000000011 atRest)).rst = false ∧
    after (step (presenting 0x0000000000000011 atRest)) (·.fb) = some [(1, 0x01)] := by decide

theorem witness_CommandsAreHeldDuringAFlush :
    opening.busy = true ∧ (presented (presenting 0x0000000000000013 opening)).rst = false ∧
    (presented opening).rst = false := by decide

theorem witness_ConfigErrorAnswersEveryWord :
    (presenting 0x000000000000000F badBuild).fsm = .cfgErr ∧ (presenting 0x000000000000000F badBuild).fault = some .config ∧
    commandPresented (presenting 0x000000000000000F badBuild) := ⟨by decide, by decide, rfl, rfl⟩

theorem witness_ConfigErrorIsSilent :
    badBuild.Inv ∧ badBuild.fsm = .cfgErr ∧ ∃ t, step badBuild = .next t := ⟨test_badBuild_inv, by decide, _, rfl⟩

/-- A fault kept, and a first fault recorded. -/
theorem witness_FirstFaultIsKeptUntilReset :
    after (step (presenting 0x000000000000000F { atRest with fault := some .range })) (·.fault) = some (some .range) ∧
    (presenting 0x000000000000000F atRest).fault = none ∧
    after (step (presenting 0x000000000000000F atRest)) (·.fault) = some (some .illegal) := by decide

theorem witness_OneResponsePerCommand :
    (presented (presenting 0x0000000000000007 atRest)).rst = false ∧
    after (step (presenting 0x0000000000000007 atRest)) (·.rsp) = some (some 0x001D0000) ∧
    after (step closing) (·.rsp) = some (some 0x00000000) ∧
    after (step (presenting 0x0000000000000009 atRest)) (·.rsp) = some none := by decide

theorem witness_ResetStep : (presented (resetting atRest)).rst = true := rfl

/-- A reset in `OPEN`, and one in `CLOSE`. -/
theorem witness_ResetDuringAFlush :
    (resetting closing).Inv ∧ (resetting closing).busy = true ∧ (presented (resetting closing)).rst = true ∧
    (resetting closing).fsm = .close ∧ (resetting opening).busy = true :=
  ⟨test_inv_inputs test_closing_inv _, by decide, rfl, rfl, by decide⟩

theorem witness_StepRunsTheDecodedCommand :
    (presenting 0x0000000000000013 atRest).cmdReady = true ∧ commandPresented (presenting 0x0000000000000013 atRest) ∧
    decode (presented (presenting 0x0000000000000013 atRest)).cmdData = .ok (.fill true) :=
  ⟨by decide, ⟨rfl, rfl⟩, by decide⟩

theorem witness_EncodedCommandRunsNext : atRest.cmdReady = true ∧ (Instr.setPixel (-1) 0 true).wf = true := by decide

theorem witness_ReadyBlockWaits :
    atRest.cmdReady = true ∧ (presented atRest).rst = false ∧ (presented atRest).cmdValid = false := by decide

theorem witness_StepKeepsTheInvariant : closing.Inv ∧ ∃ t, step closing = .next t := ⟨test_closing_inv, _, rfl⟩

theorem witness_TheBlockAlwaysGoesOn : (presenting 0x0000000000000013 atRest).Inv := test_inv_inputs test_atRest_inv _

theorem witness_ConfigurationNeverChanges : ∃ t, step (presenting 0x0000000000000013 atRest) = .next t := ⟨_, rfl⟩

theorem witness_OnlyThreeCommandsWriteTheFramebuffer :
    (presented (presenting 0x0000000000000011 atRest)).rst = false ∧ (presenting 0x0000000000000011 atRest).fb = [] ∧
    after (step (presenting 0x0000000000000011 atRest)) (·.fb) = some [(1, 0x01)] := by decide

theorem witness_OnlySetBitSetsAGuardBit :
    (presenting 0x0000000000000014 atRest).Inv ∧ guardBit 0 = true ∧
    (presenting 0x0000000000000014 atRest).fb.bit 0 = false ∧
    after (step (presenting 0x0000000000000014 atRest)) (fun t => t.fb.bit 0) = some true :=
  ⟨test_inv_inputs test_atRest_inv _, by decide, by decide, by decide⟩

/-- A SETROT that changes the rotation, and an AUXCLK that changes the enable. -/
theorem witness_OnlyTheirCommandsChangeRotationAndAux :
    (presented (presenting 0x0000000000000306 atRest)).rst = false ∧
    after (step (presenting 0x0000000000000306 atRest)) (·.rot) = some .deg270 ∧
    after (step (presenting 0x000000000000001A atRest)) (·.aux) = some true := by decide

end Sys2Proof.Machine
end

section
/-! The sizes of a legal configuration (R7 to R9, 00_scope.md). -/

namespace Sys2Proof.Machine

theorem byteCount_mod_five (c : Config) : c.byteCount % 5 = 0 := by
  unfold Config.byteCount; omega

/-- A register holds 40 bits (R8). -/
theorem forty_mul_registerCount (c : Config) : 40 * c.registerCount = c.bitCount := by
  unfold Config.registerCount Config.bitCount; ring

theorem rph_pos_of_legal {c : Config} (h : c.legal = true) : 0 < c.rph := by
  obtain ⟨hpanel, -⟩ := (legal_iff c).1 h
  omega

theorem rph_le_of_legal {c : Config} (h : c.legal = true) : c.rph ≤ 25 := by
  obtain ⟨hpanel, -⟩ := (legal_iff c).1 h
  omega

theorem pw_le_of_legal {c : Config} (h : c.legal = true) : c.pw ≤ 39 := by
  obtain ⟨hpanel, -⟩ := (legal_iff c).1 h
  omega

theorem rph_of_pw_29 {c : Config} (h : c.legal = true) (hpw : c.pw = 29) : c.rph = 10 := by
  obtain ⟨hpanel, -⟩ := (legal_iff c).1 h
  omega

theorem byteCount_pos {c : Config} (h : c.legal = true) : 0 < c.byteCount := by
  obtain ⟨-, hpc, -⟩ := (legal_iff c).1 h
  have hregisters : 0 < c.pc * c.rph := Nat.mul_pos hpc (rph_pos_of_legal h)
  unfold Config.byteCount
  omega

/-- The longest framebuffer is that of 255 panels with 25 registers in each half (R9). -/
theorem byteCount_le {c : Config} (h : c.legal = true) : c.byteCount ≤ 63750 := by
  obtain ⟨-, -, hpc, -⟩ := (legal_iff c).1 h
  have hregisters : c.pc * c.rph ≤ 255 * 25 := Nat.mul_le_mul hpc (rph_le_of_legal h)
  unfold Config.byteCount
  omega

/-- The last bit index fits 19 bits (R9). -/
theorem bitCount_sub_one_le {c : Config} (h : c.legal = true) : c.bitCount - 1 ≤ 509999 := by
  have hbytes := byteCount_le h
  have hbits := bitCount_eq c
  omega

/-- The widest surface is that of 255 panels of 39 columns (R9). -/
theorem width_le {c : Config} (h : c.legal = true) : c.width ≤ 9945 := by
  obtain ⟨-, -, hpc, -⟩ := (legal_iff c).1 h
  exact Nat.mul_le_mul (pw_le_of_legal h) hpc

/-- The pixel columns and the blank ones are all the column slots of a panel half (R8). -/
theorem pw_add_blankColumns {c : Config} (h : c.legal = true) : c.pw + c.blankColumns = c.rph * 3 := by
  obtain ⟨-, -, -, hcolumns⟩ := (legal_iff c).1 h
  exact Nat.add_sub_of_le hcolumns

theorem blankColumns_of_pw_29 {c : Config} (h : c.legal = true) (hpw : c.pw = 29) : c.blankColumns = 1 := by
  have hslots := pw_add_blankColumns h
  have hrph := rph_of_pw_29 h hpw
  omega

theorem blankColumns_of_pw_39 {c : Config} (h : c.legal = true) (hpw : c.pw = 39) :
    c.blankColumns = 3 * c.rph - 39 := by
  have hslots := pw_add_blankColumns h
  omega

/-- Settles O9: the relations are those of the definitions, and each bound is taken at the largest panel and the
largest number of panels that R7 allows. -/
theorem legalGeometryFits : Obligations.LegalGeometryFits := fun c h =>
  ⟨byteCount_pos h, byteCount_le h, bitCount_eq c, bitCount_sub_one_le h, two_mul_halfBits c,
    forty_mul_registerCount c, byteCount_mod_five c, rfl, width_le h, rfl, pw_add_blankColumns h,
    blankColumns_of_pw_29 h, blankColumns_of_pw_39 h⟩

end Sys2Proof.Machine
end

section
/-! What the decoder accepts: a command whose operands all fit their fields (R72, 30_encoding.md). -/

namespace Sys2Proof

theorem decode_ok_row {w : CmdWord} {i : Instr} (h : decode w = .ok i) : ∃ row ∈ opTable, row.operands w = i := by
  unfold decode at h
  cases hfound : opTable.find? (·.hits w) with
  | none => rw [hfound] at h; dsimp only at h; split_ifs at h
  | some row =>
    rw [hfound] at h
    cases h
    exact ⟨row, List.mem_of_find?_eq_some hfound, rfl⟩

@[simp] theorem coordinateInRange_toInt (v : BitVec 16) : coordinateInRange v.toInt = true :=
  decide_eq_true ⟨BitVec.le_toInt v, Int.le_sub_one_of_lt BitVec.toInt_lt⟩

@[simp] theorem byteIndexInRange_byteIndexField (w : CmdWord) : byteIndexInRange (byteIndexField w) = true :=
  decide_eq_true (Nat.le_sub_one_of_lt (aField w).isLt)

@[simp] theorem bitOffsetInRange_bitOffsetField (w : CmdWord) : bitOffsetInRange (bitOffsetField w) = true :=
  decide_eq_true (Nat.le_sub_one_of_lt (w.extractLsb' 32 3).isLt)

theorem operands_wf {row : OpRow} (h : row ∈ opTable) (w : CmdWord) : (row.operands w).wf = true := by
  fin_cases h <;>
    simp [rowSetPixel, rowGetPixel, rowFill, rowSetBit, rowGetBit, rowSetRot, rowGetWidth, rowGetHeight, rowFlush,
      rowAuxClk, Instr.wf, xField, yField]

/-- Whatever word the host presents, the command it decodes to is well-formed (R72). -/
theorem decode_wf {w : CmdWord} {i : Instr} (h : decode w = .ok i) : i.wf = true := by
  obtain ⟨row, hrow, rfl⟩ := decode_ok_row h
  exact operands_wf hrow w

theorem bitOffset_lt_of_wf {byteIndex bitOffset : Nat} {b : Bool}
    (h : (Instr.setBit byteIndex bitOffset b).wf = true) : bitOffset < 8 := by
  simp only [Instr.wf, Bool.and_eq_true] at h
  exact Nat.lt_succ_of_le (of_decide_eq_true h.2)

end Sys2Proof
end

section
/-! What a block step without a reset does to the registers, by who took it: the flush FSM and a host that presents
nothing keep them, an error only answers and records, and a decoded command does as its meaning says. -/

namespace Sys2Proof.Machine

/-- The registers a command works on are kept (R24 to R26, R33, 10_state.md). -/
structure SameRegisters (s t : State) : Prop where
  cfg : t.cfg = s.cfg
  fb : t.fb = s.fb
  rot : t.rot = s.rot
  aux : t.aux = s.aux
  fault : t.fault = s.fault

/-- No step of the flush FSM touches them (R152). -/
theorem fsmStep_sameRegisters {s t : State} (h : fsmStep s = .next t) : SameRegisters s t := by
  rcases fsmStep_cases h with ⟨-, rfl⟩ | ⟨-, rfl⟩ | ⟨-, rfl⟩ | ⟨-, -, rfl⟩ | ⟨-, rfl⟩ | ⟨-, rfl⟩ <;>
    constructor <;> simp

/-- An accepted word is answered with an error, which is CONFIG exactly in `CFGERR`, or is a command of an idle
block (R202, R203). -/
theorem commandStep_ready_cases {w : CmdWord} {s t : State} (hready : s.busy = false) (h : commandStep w s = .next t) :
    (∃ code, (code = .config ↔ s.fsm = .cfgErr) ∧ t = raise code s) ∨
    s.fsm = .idle ∧ ∃ i, decode w = .ok i ∧ exec i s = .next t := by
  rcases (busy_eq_false_iff s).1 hready with hidle | hcfg
  · rcases commandStep_cases h with hexec | ⟨-, hillegal⟩
    · exact .inr ⟨hidle, hexec⟩
    · rw [acceptIllegal, accepting_idle hidle] at hillegal
      cases hillegal
      exact .inl ⟨.illegal, by simp [hidle], rfl⟩
  · rcases commandStep_cases h with ⟨i, -, hexec⟩ | ⟨-, hillegal⟩
    · rw [exec_cfgErr hcfg] at hexec
      cases hexec
      exact .inl ⟨.config, by simp [hcfg], rfl⟩
    · rw [acceptIllegal, accepting_cfgErr hcfg] at hillegal
      cases hillegal
      exact .inl ⟨.config, by simp [hcfg], rfl⟩

/-! ### What a command of an idle block changes -/

/-- Each register changes by its own commands only, and the fault record only in taking an error. -/
structure CommandFrame (i : Instr) (s t : State) : Prop where
  cfg : t.cfg = s.cfg
  fb : t.fb = s.fb ∨ (∃ b, i = .fill b) ∨ (∃ byteIndex bitOffset b, i = .setBit byteIndex bitOffset b) ∨
    ∃ x y b, i = .setPixel x y b
  rot : t.rot = s.rot ∨ i = .setRot t.rot
  aux : t.aux = s.aux ∨ i = .auxClk t.aux
  fault : t.fault = s.fault ∨ ∃ code, t = raise code s

theorem exec_commandFrame {i : Instr} {s t : State} (hidle : s.fsm = .idle) (h : exec i s = .next t) :
    CommandFrame i s t := by
  rcases exec_idle_cases hidle h with ⟨_, rfl⟩ | ⟨_, _, ⟨_, _, rfl, -⟩, -, rfl⟩ | ⟨_, _, _, rfl, -, rfl⟩ |
    ⟨_, rfl, rfl⟩ | ⟨_, rfl, rfl⟩ | ⟨_, rfl, rfl⟩ | ⟨rfl, rfl⟩ | ⟨-, rfl⟩
  case inr.inr.inr.inr.inr.inr.inr => exact ⟨rfl, .inl rfl, .inl rfl, .inl rfl, .inr ⟨.range, rfl⟩⟩
  all_goals constructor <;> simp

/-! ### The step -/

/-- A reset replaces whatever else the step would do (R220, R222). -/
theorem step_of_reset {s t : State} (h : step s = .next t) (hreset : (presented s).rst = true) :
    t = resetBlock (takeSample s) := by
  rw [step, if_pos hreset] at h
  cases h
  rfl

/-- Everything a step without a reset can do to the registers. -/
theorem step_cases_of_no_reset {s t : State} (h : step s = .next t) (hreset : (presented s).rst = false) :
    SameRegisters (takeSample s) t ∨ (∃ code, t = raise code (takeSample s)) ∨
    s.fsm = .idle ∧ ∃ i, decode (presented s).cmdData = .ok i ∧ CommandFrame i (takeSample s) t := by
  rcases step_cases h with ⟨hrst, -⟩ | ⟨-, -, hfsm⟩ | ⟨-, hready, -, hcmd⟩ | ⟨-, -, -, rfl⟩
  · exact absurd hrst (by simp [hreset])
  · exact .inl (fsmStep_sameRegisters hfsm)
  · rcases commandStep_ready_cases (s := takeSample s) hready hcmd with ⟨code, -, rfl⟩ | ⟨hidle, i, hdecode, hexec⟩
    · exact .inr (.inl ⟨code, rfl⟩)
    · exact .inr (.inr ⟨hidle, i, hdecode, exec_commandFrame hidle hexec⟩)
  · exact .inl ⟨rfl, rfl, rfl, rfl, rfl⟩

end Sys2Proof.Machine
end

section
/-! The statements about one step that its cases answer (R22 to R26, R32 to R34, 10_state.md). -/

namespace Sys2Proof.Machine

/-- Settles O55: a reset keeps the configuration, and so does every case of a step without one. -/
theorem configurationNeverChanges : Obligations.ConfigurationNeverChanges := by
  intro s t h
  cases hreset : (presented s).rst with
  | true => simp [step_of_reset h hreset]
  | false =>
    rcases step_cases_of_no_reset h hreset with hsame | ⟨code, rfl⟩ | ⟨-, i, -, hframe⟩
    · exact hsame.cfg
    · rfl
    · exact hframe.cfg

/-- The response of an error carries its code and no value (R85, R201). -/
theorem rspWord_status (code : ErrorCode) : rspWord code.status 0 = code.status.setWidth 32 := by
  cases code <;> rfl

/-- A fault record that an error changes holds the error's code, which its response carries; one that holds a code
already is not changed (R201). -/
theorem raise_keeps_and_answers (code : ErrorCode) (s : State) :
    (∀ c, s.fault = some c → (raise code s).fault = some c) ∧
    (∀ c, s.fault = none → (raise code s).fault = some c → (raise code s).rsp = some (c.status.setWidth 32)) := by
  constructor
  · intro c hc
    simp [hc]
  · intro c hnone hc
    simp only [raise_fault, hnone, Option.getD_none, Option.some.injEq] at hc
    rw [raise_rsp, rspWord_status, hc]

/-- Settles O44: the fault record changes only by taking an error, which keeps the first code. -/
theorem firstFaultIsKeptUntilReset : Obligations.FirstFaultIsKeptUntilReset := by
  intro s t h hreset
  have hcases : t.fault = s.fault ∨ ∃ code, t = raise code (takeSample s) := by
    rcases step_cases_of_no_reset h hreset with hsame | hraise | ⟨-, i, -, hframe⟩
    · exact .inl hsame.fault
    · exact .inr hraise
    · exact hframe.fault
  rcases hcases with hkept | ⟨code, rfl⟩
  · exact ⟨fun c hc => hkept.trans hc, fun c hnone hc => absurd (hkept.symm.trans hc) (by simp [hnone])⟩
  · exact raise_keeps_and_answers code (takeSample s)

/-- Settles O56: of the cases of a step only a decoded command changes the framebuffer. -/
theorem onlyThreeCommandsWriteTheFramebuffer : Obligations.OnlyThreeCommandsWriteTheFramebuffer := by
  intro s t h hreset hchanged
  rcases step_cases_of_no_reset h hreset with hsame | ⟨code, rfl⟩ | ⟨hidle, i, hdecode, hframe⟩
  · exact absurd hsame.fb hchanged
  · exact absurd rfl hchanged
  · rcases hframe.fb with hkept | ⟨b, rfl⟩ | ⟨byteIndex, bitOffset, b, rfl⟩ | ⟨x, y, b, rfl⟩
    · exact absurd hkept hchanged
    · exact ⟨hidle, .inl ⟨b, hdecode⟩⟩
    · exact ⟨hidle, .inr (.inl ⟨byteIndex, bitOffset, b, hdecode⟩)⟩
    · exact ⟨hidle, .inr (.inr ⟨x, y, b, hdecode⟩)⟩

/-- Settles O58: of the cases of a step only a decoded command changes the rotation or the aux-clock enable. -/
theorem onlyTheirCommandsChangeRotationAndAux : Obligations.OnlyTheirCommandsChangeRotationAndAux := by
  intro s t h hreset
  rcases step_cases_of_no_reset h hreset with hsame | ⟨code, rfl⟩ | ⟨-, i, hdecode, hframe⟩
  · exact ⟨fun hrot => absurd hsame.rot hrot, fun haux => absurd hsame.aux haux⟩
  · exact ⟨fun hrot => absurd rfl hrot, fun haux => absurd rfl haux⟩
  · obtain ⟨-, -, hrot, haux, -⟩ := hframe
    exact ⟨fun hne => hrot.resolve_left hne ▸ hdecode, fun hne => haux.resolve_left hne ▸ hdecode⟩

/-- Settles O46: each state of the FSM is on exactly one of the two lists. -/
theorem statusOutputs : Obligations.StatusOutputs := by
  intro s
  refine ⟨?_, ?_, cmdReady_eq s, rfl, Option.isSome_iff_ne_none⟩
  · unfold State.busy
    cases s.fsm <;> decide
  · unfold State.cmdReady
    cases s.fsm <;> decide

end Sys2Proof.Machine
end

section
/-! The invariant at reset, and kept by each operation a step is made of: answering, taking an error, a command's
write to a register, and each step of the flush FSM (R27 to R29, 10_state.md; R168 to R170, 42_transmission.md). -/

namespace Sys2Proof.Machine

/-! ### Reset -/

/-- What power-on and every reset have in common (R22, R220). -/
structure AtResetValues (s : State) : Prop where
  fb : s.fb = []
  rot : s.rot = .deg0
  aux : s.aux = s.cfg.auxReset
  session : s.session = false
  latch : s.latch = false
  sck : s.sck = false
  fsm : s.fsm = if s.cfg.legal then .idle else .cfgErr
  fault : s.fault = if s.cfg.legal then none else some .config
  chainLength : s.env.chain.length = s.cfg.bitCount
  visibleLength : s.env.visible.length = s.cfg.bitCount
  levelSeen : s.env.lvl = false

theorem AtResetValues.ready {s : State} (h : AtResetValues s) : s.fsm = .idle ∨ s.fsm = .cfgErr := by
  rw [h.fsm]
  split_ifs
  · exact .inl rfl
  · exact .inr rfl

theorem AtResetValues.inv {s : State} (h : AtResetValues s) : s.Inv := by
  rcases h.ready with hs | hs <;>
    exact
      { fbForm := h.fb ▸ Memory.wf_nil
        fbInside := by simp [h.fb]
        cfgErrIff := by simp [h.fsm]
        configFault := by simp [h.fsm, h.fault]
        cfgErrQuiet := fun _ => ⟨h.fb, h.rot, h.aux, h.latch⟩
        sessionLevel := by simp [h.session, hs, Fsm.inSession]
        latchLow := fun _ => h.latch
        latchHigh := by simp [hs]
        sckLow := h.sck
        cursorInside := by simp [hs]
        chainLength := h.chainLength
        visibleLength := h.visibleLength
        levelSeen := h.levelSeen.trans h.latch.symm
        staged := by simp [hs]
        stagedWhole := by simp [hs]
        presentedWhole := by simp [hs] }

theorem powerOn_atResetValues (c : Config) : AtResetValues (State.powerOn c) :=
  ⟨rfl, rfl, rfl, rfl, rfl, rfl, rfl, rfl, length_powerUpEnv_chain _, length_powerUpEnv_visible _, rfl⟩

theorem resetBlock_atResetValues {s : State} (h : s.Inv) : AtResetValues (resetBlock s) := by
  constructor <;> simp [h.chainLength, h.visibleLength]

/-- Settles O52: power-on has the reset values. -/
theorem powerOnSatisfiesTheInvariant : Obligations.PowerOnSatisfiesTheInvariant :=
  ⟨fun c => (powerOn_atResetValues c).inv, (powerOn_atResetValues _).inv⟩

/-! ### The configuration error -/

theorem State.Inv.legal {s : State} (h : s.Inv) (hs : s.fsm ≠ .cfgErr) : s.cfg.legal = true := by
  simpa using fun hillegal => hs (h.cfgErrIff.2 hillegal)

theorem State.Inv.fault_ne_config {s : State} (h : s.Inv) (hs : s.fsm ≠ .cfgErr) : s.fault ≠ some .config :=
  fun hfault => hs (h.configFault.1 hfault)

/-! ### Answers and errors -/

/-- The invariant does not speak of the ports and the trace. -/
theorem State.Inv.with_ports {s : State} (h : s.Inv) (rsp : Option RspWord) (inputs : List PortSample)
    (trace : List Event) : ({ s with rsp := rsp, inputs := inputs, trace := trace } : State).Inv :=
  { h with }

theorem State.Inv.takeSample {s : State} (h : s.Inv) : (takeSample s).Inv := h.with_ports _ _ _

theorem State.Inv.respond {s : State} (h : s.Inv) (status : BitVec 4) (value : BitVec 16) :
    (respond status value s).Inv := h.with_ports _ _ _

/-- An error keeps the record CONFIG exactly in `CFGERR`, where it is CONFIG itself exactly there (R203). -/
theorem State.Inv.raise {s : State} (h : s.Inv) {code : ErrorCode} (hcode : code = .config ↔ s.fsm = .cfgErr) :
    (raise code s).Inv :=
  have hrecord : some (s.fault.getD code) = some .config ↔ s.fsm = .cfgErr := by
    cases hfault : s.fault with
    | none => simpa using hcode
    | some earlier => simpa [hfault] using h.configFault
  State.Inv.respond (s := { s with fault := some (s.fault.getD code) }) { h with configFault := hrecord } _ _

/-! ### What a command of an idle block writes -/

theorem State.Inv.with_fb {s : State} (h : s.Inv) (hs : s.fsm = .idle) {m : Memory} (hform : m.wf)
    (hinside : ∀ p ∈ m, p.1 < s.cfg.byteCount) : ({ s with fb := m } : State).Inv :=
  { h with
    fbForm := hform
    fbInside := hinside
    cfgErrQuiet := by simp [hs]
    staged := by simp [hs]
    stagedWhole := by simp [hs]
    presentedWhole := by simp [hs] }

theorem State.Inv.with_bit {s : State} (h : s.Inv) (hs : s.fsm = .idle) {k : Nat} (hk : k / 8 < s.cfg.byteCount)
    (b : Bool) : ({ s with fb := s.fb.setBit k b } : State).Inv := by
  refine h.with_fb hs (Memory.setBit_wf h.fbForm k b) fun p hp => ?_
  rcases Memory.mem_setBit hp with hindex | hlisted
  · exact hindex ▸ hk
  · exact h.fbInside p hlisted

theorem State.Inv.with_fill {s : State} (h : s.Inv) (hs : s.fsm = .idle) (f : Nat → Byte) :
    ({ s with fb := Memory.tabulate s.cfg.byteCount f } : State).Inv :=
  h.with_fb hs (Memory.tabulate_wf _ _) fun _ hp => (mem_tabulate.1 hp).1

theorem State.Inv.with_rot {s : State} (h : s.Inv) (hs : s.fsm = .idle) (r : Rotation) :
    ({ s with rot := r } : State).Inv :=
  { h with cfgErrQuiet := by simp [hs] }

theorem State.Inv.setAux {s : State} (h : s.Inv) (hs : s.fsm = .idle) (b : Bool) : (setAux b s).Inv := by
  unfold Machine.setAux
  split_ifs
  · exact h
  · exact { h with cfgErrQuiet := by simp [hs] }

/-! ### The flush FSM where no bits are staged -/

/-- Before the bits are staged and after the frame is presented the invariant asks of the FSM's state only the
session's level (R27, R29). -/
theorem State.Inv.with_fsm_unstaged {s : State} (h : s.Inv) (hs : s.fsm ≠ .cfgErr) {f : Fsm}
    (hf : f = .idle ∨ f = .openSession ∨ f = .latchLo) {session : Bool} (hsession : session = f.inSession) :
    ({ s with fsm := f, session := session } : State).Inv := by
  have hlegal := h.legal hs
  have hfault := h.fault_ne_config hs
  rcases hf with rfl | rfl | rfl <;>
    exact
      { h with
        cfgErrIff := by simp [hlegal]
        configFault := by simp [hfault]
        cfgErrQuiet := nofun
        sessionLevel := hsession
        latchLow := nofun
        latchHigh := nofun
        cursorInside := nofun
        staged := nofun
        stagedWhole := nofun
        presentedWhole := nofun }

/-- A flush starts (R151). -/
theorem State.Inv.flush {s : State} (h : s.Inv) (hs : s.fsm = .idle) : ({ s with fsm := .openSession } : State).Inv :=
  h.with_fsm_unstaged (by simp [hs]) (by simp) (by simp [h.sessionLevel, hs, Fsm.inSession])

theorem State.Inv.stepOpen {s : State} (h : s.Inv) (hs : s.fsm = .openSession) : (stepOpen s).Inv :=
  (h.with_fsm_unstaged (by simp [hs]) (.inr (.inr rfl)) rfl).with_ports _ _ _

theorem State.Inv.stepClose {s : State} (h : s.Inv) (hs : s.fsm = .close) : (stepClose s).Inv :=
  (h.with_fsm_unstaged (by simp [hs]) (.inl rfl) rfl).with_ports _ _ _

/-! ### The accepted command -/

theorem exec_keeps_inv {i : Instr} {s t : State} (h : s.Inv) (hs : s.fsm = .idle) (hwf : i.wf = true)
    (hexec : exec i s = .next t) : t.Inv := by
  rcases exec_idle_cases hs hexec with ⟨v, rfl⟩ | ⟨k, b, -, hk, rfl⟩ | ⟨byteIndex, bitOffset, b, rfl, hbyte, rfl⟩ |
    ⟨b, -, rfl⟩ | ⟨r, -, rfl⟩ | ⟨b, -, rfl⟩ | ⟨-, rfl⟩ | ⟨-, rfl⟩
  · exact h.respond _ _
  · exact (h.with_bit hs hk b).respond _ _
  · have hoffset := bitOffset_lt_of_wf hwf
    exact (h.with_bit hs (by omega) b).respond _ _
  · exact (h.with_fill hs _).respond _ _
  · exact (h.with_rot hs r).respond _ _
  · exact (h.setAux hs b).respond _ _
  · exact h.flush hs
  · exact h.raise (by simp [hs])

/-! ### The steps that stage and present the frame -/

/-- The cursor starts at the framebuffer's last bit (R154). -/
theorem cursor_stepLatchLo {s : State} (hlegal : s.cfg.legal = true) :
    (stepLatchLo s).curI.toNat + 1 = s.cfg.byteCount ∧ (stepLatchLo s).cursor + 1 = s.cfg.bitCount := by
  have hpos := byteCount_pos hlegal
  have hle := byteCount_le hlegal
  have hbits := bitCount_eq s.cfg
  have hindex : (stepLatchLo s).curI.toNat = s.cfg.byteCount - 1 := by
    rw [stepLatchLo_curI, BitVec.toNat_ofNat, Nat.mod_eq_of_lt (by omega)]
  have hoffset : (stepLatchLo s).curJ.toNat = 7 := rfl
  unfold State.cursor
  omega

theorem State.Inv.stepLatchLo {s : State} (h : s.Inv) (hs : s.fsm = .latchLo) : (stepLatchLo s).Inv :=
  have hlegal := h.legal (by simp [hs])
  have hcursor := cursor_stepLatchLo hlegal
  { h with
    cfgErrIff := by simp [hlegal]
    configFault := by simp [h.fault_ne_config (by simp [hs])]
    cfgErrQuiet := nofun
    sessionLevel := by simp [h.sessionLevel, hs, Fsm.inSession]
    latchLow := fun _ => rfl
    latchHigh := nofun
    cursorInside := fun _ => by rw [stepLatchLo_cfg]; omega
    chainLength := by simp [h.chainLength]
    visibleLength := by simp [h.visibleLength]
    levelSeen := by simp
    staged := fun _ j hj => by rw [stepLatchLo_cfg] at hj; omega
    stagedWhole := nofun
    presentedWhole := nofun }

/-- After the last bit the FSM goes on; before it only the cursor moves, to the bit below (R156). -/
theorem advanceCursor_cases (s : State) :
    s.cursor = 0 ∧ advanceCursor s = { s with fsm := .latchHi } ∨
    ∃ i j, advanceCursor s = { s with curI := i, curJ := j } ∧ 8 * i.toNat + j.toNat + 1 = s.cursor ∧
      i.toNat ≤ s.curI.toNat := by
  unfold advanceCursor State.cursor
  split_ifs with hj hi
  · exact .inr ⟨s.curI, s.curJ - 1, rfl, by bv_omega, le_refl _⟩
  · exact .inr ⟨s.curI - 1, 7, rfl, by bv_omega, by bv_omega⟩
  · simp_all

/-- With the bit under the cursor shifted in, the chain holds the bits from the cursor on (R155, R168). -/
theorem State.Inv.staged_shiftIn {s : State} (h : s.Inv) (hs : s.fsm = .shift) {j : Nat}
    (hj : s.cursor + j < s.cfg.bitCount) :
    (shiftIn (s.fb.bit s.cursor) s.env.chain)[j]? = some (s.fb.bit (s.cursor + j)) := by
  have hlength := h.chainLength
  cases j with
  | zero => exact getElem?_shiftIn_zero (by omega)
  | succ j =>
    rw [getElem?_shiftIn_succ (by omega), h.staged hs j (by omega)]
    congr 2
    omega

/-- What a `SHIFT` step makes of the state, before the cursor moves (R155). -/
abbrev bitSent (s : State) : State :=
  emit (.bit (s.fb.bit s.cursor)) { s with sdo := s.fb.bit s.cursor, sck := false }

theorem State.Inv.last_bitSent {s : State} (h : s.Inv) (hs : s.fsm = .shift) (hcursor : s.cursor = 0) :
    ({ bitSent s with fsm := .latchHi } : State).Inv :=
  { h with
    cfgErrIff := by simp [h.legal (by simp [hs])]
    configFault := by simp [h.fault_ne_config (by simp [hs])]
    cfgErrQuiet := nofun
    sessionLevel := by simp [h.sessionLevel, hs, Fsm.inSession]
    latchLow := fun _ => h.latchLow (.inl hs)
    latchHigh := nofun
    sckLow := rfl
    cursorInside := nofun
    chainLength := by simp [h.chainLength]
    staged := nofun
    stagedWhole := fun _ k hk => by simpa [hcursor] using h.staged_shiftIn hs (j := k) (by simpa [hcursor])
    presentedWhole := nofun }

theorem State.Inv.next_bitSent {s : State} (h : s.Inv) (hs : s.fsm = .shift) {i : BitVec 16} {j : BitVec 3}
    (hcursor : 8 * i.toNat + j.toNat + 1 = s.cursor) (hi : i.toNat ≤ s.curI.toNat) :
    ({ bitSent s with curI := i, curJ := j } : State).Inv :=
  { h with
    sckLow := rfl
    cursorInside := fun _ => hi.trans_lt (h.cursorInside hs)
    chainLength := by simp [h.chainLength]
    staged := fun _ k hk => by
      simp only [State.cursor, hcursor] at hk ⊢
      exact h.staged_shiftIn hs hk
    stagedWhole := by simp [hs] }

theorem State.Inv.stepShift {s : State} (h : s.Inv) (hs : s.fsm = .shift) : (advanceCursor (bitSent s)).Inv := by
  rcases advanceCursor_cases (bitSent s) with ⟨hcursor, heq⟩ | ⟨i, j, heq, hcursor, hi⟩
  · exact heq ▸ h.last_bitSent hs hcursor
  · exact heq ▸ h.next_bitSent hs hcursor hi

/-- The rising edge copies the chain, which holds the framebuffer, to the output latches (R157, R168, R170). -/
theorem State.Inv.stepLatchHi {s : State} (h : s.Inv) (hs : s.fsm = .latchHi) : (stepLatchHi s).Inv :=
  have henv : (Machine.stepLatchHi s).env = { s.env with visible := s.env.chain, lvl := true } :=
    react_latch_rising (h.levelSeen.trans (h.latchLow (.inr hs)))
  { h with
    cfgErrIff := by simp [h.legal (by simp [hs])]
    configFault := by simp [h.fault_ne_config (by simp [hs])]
    cfgErrQuiet := nofun
    sessionLevel := by simp [h.sessionLevel, hs, Fsm.inSession]
    latchLow := nofun
    latchHigh := fun _ => rfl
    cursorInside := nofun
    chainLength := henv ▸ h.chainLength
    visibleLength := henv ▸ h.chainLength
    levelSeen := henv ▸ rfl
    staged := nofun
    stagedWhole := nofun
    presentedWhole := fun _ => henv ▸ h.stagedWhole hs }

/-! ### Every step -/

theorem fsmStep_keeps_inv {s t : State} (h : s.Inv) (hstep : fsmStep s = .next t) : t.Inv := by
  rcases fsmStep_cases hstep with ⟨-, rfl⟩ | ⟨hs, rfl⟩ | ⟨hs, rfl⟩ | ⟨hs, -, rfl⟩ | ⟨hs, rfl⟩ | ⟨hs, rfl⟩
  · exact h
  · exact h.stepOpen hs
  · exact h.stepLatchLo hs
  · exact h.stepShift hs
  · exact h.stepLatchHi hs
  · exact h.stepClose hs

theorem commandStep_keeps_inv {w : CmdWord} {s t : State} (h : s.Inv) (hready : s.busy = false)
    (hstep : commandStep w s = .next t) : t.Inv := by
  rcases commandStep_ready_cases hready hstep with ⟨code, hcode, rfl⟩ | ⟨hs, i, hdecode, hexec⟩
  · exact h.raise hcode
  · exact exec_keeps_inv h hs (decode_wf hdecode) hexec

/-- Settles O53, by the cases of a block step. -/
theorem stepKeepsTheInvariant : Obligations.StepKeepsTheInvariant := by
  intro s t h hstep
  rcases step_cases hstep with ⟨-, rfl⟩ | ⟨-, -, hfsm⟩ | ⟨-, hready, -, hcmd⟩ | ⟨-, -, -, rfl⟩
  · exact (resetBlock_atResetValues h.takeSample).inv
  · exact fsmStep_keeps_inv h.takeSample hfsm
  · exact commandStep_keeps_inv h.takeSample hready hcmd
  · exact h.takeSample

end Sys2Proof.Machine
end

section
/-! The slots of the framebuffer: where a slot's bit lies and what it is, and that every bit but the guard bits is
one (R57 to R59, 20_memory.md). -/

namespace Sys2Proof.Machine

/-- The ranges of a slot's half, region, register, column slot and row slot (R57, R59). -/
structure SlotRange (c : Config) (h q r col t : Nat) : Prop where
  half : h < 2
  region : q < c.pc
  register : r < c.rph
  column : col < 3
  row : t < 12

/-! ### A slot within its register, its region and its half -/

theorem halfBits_eq (c : Config) : c.halfBits = c.pc * (c.rph * 40) := by
  unfold Config.halfBits; ring

/-- A slot is a whole number of registers and its offset in its own (R57, R59). -/
theorem slotIndex_in_register (c : Config) (h q r col t : Nat) :
    slotIndex c h q r col t = 40 * ((h * c.pc + q) * c.rph + r) + (2 + 12 * col + t) := by
  unfold slotIndex Config.halfBits; ring

theorem slotIndex_in_region (c : Config) (h q r col t : Nat) :
    slotIndex c h q r col t = (40 * r + (2 + 12 * col + t)) + c.rph * 40 * (h * c.pc + q) := by
  unfold slotIndex Config.halfBits; ring

theorem slotIndex_in_half (c : Config) (h q r col t : Nat) :
    slotIndex c h q r col t = (40 * r + (2 + 12 * col + t) + c.rph * 40 * q) + c.halfBits * h := by
  unfold slotIndex; ring

theorem registerOffset_slotIndex (c : Config) (h q r : Nat) {col t : Nat} (hcol : col < 3) (ht : t < 12) :
    registerOffset (slotIndex c h q r col t) = 2 + 12 * col + t := by
  rw [registerOffset, slotIndex_in_register]
  omega

/-- The slots of a register lie between its two leading and its two trailing guard bits (R58, R59). -/
theorem guardBit_slotIndex (c : Config) (h q r : Nat) {col t : Nat} (hcol : col < 3) (ht : t < 12) :
    guardBit (slotIndex c h q r col t) = false := by
  rw [guardBit, registerOffset_slotIndex c h q r hcol ht]
  exact decide_eq_false (by omega)

namespace SlotRange

section
variable {c : Config} {h q r col t : Nat} (hslot : SlotRange c h q r col t)
include hslot

theorem lt_region : 40 * r + (2 + 12 * col + t) < c.rph * 40 := by
  have hr := hslot.register
  have hcol := hslot.column
  have ht := hslot.row
  omega

theorem lt_half : 40 * r + (2 + 12 * col + t) + c.rph * 40 * q < c.halfBits := by
  have hin := hslot.lt_region
  calc 40 * r + (2 + 12 * col + t) + c.rph * 40 * q
      < c.rph * 40 * (q + 1) := by rw [Nat.mul_succ (c.rph * 40) q]; omega
    _ ≤ c.rph * 40 * c.pc := Nat.mul_le_mul_left _ hslot.region
    _ = c.halfBits := by rw [halfBits_eq, Nat.mul_comm]

/-- The half is the quotient, the index within the half the remainder (R57). -/
theorem divMod_half : slotIndex c h q r col t / c.halfBits = h ∧
    slotIndex c h q r col t % c.halfBits = 40 * r + (2 + 12 * col + t) + c.rph * 40 * q :=
  (Nat.div_mod_unique (Nat.zero_lt_of_lt hslot.lt_half)).2 ⟨(slotIndex_in_half c h q r col t).symm, hslot.lt_half⟩

theorem halfOf_slotIndex : halfOf c (slotIndex c h q r col t) = h := hslot.divMod_half.1

theorem regionOf_slotIndex : regionOf c (slotIndex c h q r col t) = q := by
  rw [regionOf, hslot.divMod_half.2]
  exact ((Nat.div_mod_unique (Nat.zero_lt_of_lt hslot.lt_region)).2 ⟨rfl, hslot.lt_region⟩).1

theorem registerOf_slotIndex : registerOf c (slotIndex c h q r col t) = r := by
  have hcol := hslot.column
  have ht := hslot.row
  rw [registerOf, slotIndex_in_region, Nat.add_mul_mod_self_left, Nat.mod_eq_of_lt hslot.lt_region]
  omega

theorem localColumnOf_slotIndex : localColumnOf c (slotIndex c h q r col t) = 3 * r + col := by
  have ht := hslot.row
  rw [localColumnOf, hslot.registerOf_slotIndex, registerOffset_slotIndex c h q r hslot.column ht]
  omega

theorem rowSlotOf_slotIndex : rowSlotOf (slotIndex c h q r col t) = t := by
  have ht := hslot.row
  rw [rowSlotOf, registerOffset_slotIndex c h q r hslot.column ht]
  omega

theorem slotIndex_lt_bitCount : slotIndex c h q r col t < c.bitCount := by
  have hin := hslot.lt_half
  calc slotIndex c h q r col t
      < c.halfBits * (h + 1) := by rw [slotIndex_in_half, Nat.mul_succ c.halfBits h]; omega
    _ ≤ c.halfBits * 2 := Nat.mul_le_mul_left _ hslot.half
    _ = c.bitCount := by rw [Nat.mul_comm, two_mul_halfBits]

/-- The local column decides which class a slot is of (R59). -/
theorem pixelBit_slotIndex : pixelBit c (slotIndex c h q r col t) = decide (3 * r + col < c.pw) := by
  simp [pixelBit, hslot.slotIndex_lt_bitCount, guardBit_slotIndex c h q r hslot.column hslot.row,
    hslot.localColumnOf_slotIndex]

theorem blankColumnBit_slotIndex : blankColumnBit c (slotIndex c h q r col t) = decide (c.pw ≤ 3 * r + col) := by
  simp [blankColumnBit, hslot.slotIndex_lt_bitCount, guardBit_slotIndex c h q r hslot.column hslot.row,
    hslot.localColumnOf_slotIndex]

end

end SlotRange

/-! ### Every other bit is a slot -/

theorem registerOffset_of_guardBit_false {k : Nat} (hguard : guardBit k = false) :
    2 ≤ registerOffset k ∧ registerOffset k < 38 := by
  have hends := of_decide_eq_false hguard
  omega

/-- The column slot of bit `k` within its register, for a bit that is no guard bit (R59). -/
def columnSlotOf (k : Nat) : Nat := (registerOffset k - 2) / 12

theorem slotRange_of_bit {c : Config} {k : Nat} (hk : k < c.bitCount) (hguard : guardBit k = false) :
    SlotRange c (halfOf c k) (regionOf c k) (registerOf c k) (columnSlotOf k) (rowSlotOf k) := by
  have hoffset := registerOffset_of_guardBit_false hguard
  have hcount : k < c.halfBits * 2 := by rwa [Nat.mul_comm, two_mul_halfBits]
  have hhalf : 0 < c.halfBits := by omega
  have hregion : 0 < c.rph * 40 := Nat.pos_of_mul_pos_left (halfBits_eq c ▸ hhalf)
  exact
    { half := Nat.div_lt_of_lt_mul hcount
      region := Nat.div_lt_of_lt_mul (by rw [Nat.mul_comm, ← halfBits_eq]; exact Nat.mod_lt k hhalf)
      register := Nat.div_lt_of_lt_mul (Nat.mul_comm c.rph 40 ▸ Nat.mod_lt k hregion)
      column := by unfold columnSlotOf; omega
      row := Nat.mod_lt _ (by omega) }

/-- A bit is put together again from the parts it was taken apart into (R57, R59). -/
theorem eq_slotIndex_of_bit {c : Config} {k : Nat} (hguard : guardBit k = false) :
    k = slotIndex c (halfOf c k) (regionOf c k) (registerOf c k) (columnSlotOf k) (rowSlotOf k) := by
  have hoffset := registerOffset_of_guardBit_false hguard
  have hregister : 2 + 12 * columnSlotOf k + rowSlotOf k = registerOffset k := by
    unfold columnSlotOf rowSlotOf
    omega
  have hregion : 40 * registerOf c k + registerOffset k = k % (c.rph * 40) := by
    have hmod : k % (c.rph * 40) % 40 = k % 40 := Nat.mod_mod_of_dvd k (Nat.dvd_mul_left 40 c.rph)
    unfold registerOf registerOffset
    omega
  have hhalf : k % (c.rph * 40) + c.rph * 40 * regionOf c k = k % c.halfBits := by
    have hmod : k % c.halfBits % (c.rph * 40) = k % (c.rph * 40) :=
      Nat.mod_mod_of_dvd k (halfBits_eq c ▸ Nat.dvd_mul_left _ c.pc)
    rw [← hmod]
    exact Nat.mod_add_div _ _
  calc k = k % c.halfBits + c.halfBits * halfOf c k := (Nat.mod_add_div k c.halfBits).symm
    _ = slotIndex c (halfOf c k) (regionOf c k) (registerOf c k) (columnSlotOf k) (rowSlotOf k) := by
      rw [slotIndex_in_half, hregister, hregion, hhalf]

/-- Settles O16: a slot's parts are the quotients and remainders of its index, and those of any other bit than a
guard bit lie in a slot's ranges. -/
theorem slotsAndGuardBits : Obligations.SlotsAndGuardBits := by
  intro c _
  constructor
  · intro h q r col t hh hq hr hcol ht
    have hslot : SlotRange c h q r col t := ⟨hh, hq, hr, hcol, ht⟩
    exact ⟨hslot.slotIndex_lt_bitCount, guardBit_slotIndex c h q r hcol ht, hslot.halfOf_slotIndex,
      hslot.regionOf_slotIndex, hslot.registerOf_slotIndex, hslot.localColumnOf_slotIndex,
      hslot.rowSlotOf_slotIndex, hslot.pixelBit_slotIndex, hslot.blankColumnBit_slotIndex⟩
  · intro k hk hguard
    obtain ⟨hh, hq, hr, hcol, ht⟩ := slotRange_of_bit hk hguard
    exact ⟨_, _, _, _, _, hh, hq, hr, hcol, ht, eq_slotIndex_of_bit hguard⟩

end Sys2Proof.Machine
end

section
/-! The Addressing Engine names slots: the bit of a coordinate in bounds is the slot of its half, panel, register,
column and row (R102 to R109, 40_addressing.md). -/

namespace Sys2Proof.Machine

/-- Every rotation takes the host's surface into the physical one (R102, R103). -/
theorem rotate_onSurface {c : Config} {r : Rotation} {x y : Int} (h : inBounds c r x y = true) :
    (0 ≤ (rotate c r x y).1 ∧ (rotate c r x y).1 < c.width) ∧
    0 ≤ (rotate c r x y).2 ∧ (rotate c r x y).2 < 24 := by
  obtain ⟨hx, hy, hw, hh⟩ := (inBounds_iff c r x y).1 h
  cases r <;> simp only [rotatedWidth, rotatedHeight, Config.height, rotate, transform] at * <;> omega

/-- The offset of the half is 0 or the bits of one half (R104). -/
theorem halfOffset_eq_mul (c : Config) (yp : Int) : ∃ h : Nat, h < 2 ∧ halfOffset c yp = h * c.halfBits := by
  unfold halfOffset
  split_ifs
  · exact ⟨1, by omega, by simp⟩
  · exact ⟨0, by omega, by simp⟩

/-- The mirrored column lies on the surface again (R104). -/
theorem halfColumn_onSurface {c : Config} {xp : Int} (hlow : 0 ≤ xp) (hhigh : xp < c.width) (yp : Int) :
    ∃ n : Nat, n < c.width ∧ halfColumn c xp yp = n := by
  have hcolumn : 0 ≤ halfColumn c xp yp ∧ halfColumn c xp yp < c.width := by
    unfold halfColumn
    split_ifs <;> omega
  exact ⟨(halfColumn c xp yp).toNat, by omega, by omega⟩

/-- The V shape stays within the twelve row slots (R104, R108). -/
theorem rowSlot_halfRow {yp : Int} (hlow : 0 ≤ yp) (hhigh : yp < 24) :
    ∃ t : Nat, t < 12 ∧ rowSlot (halfRow yp) = t := by
  have hrow : 0 ≤ rowSlot (halfRow yp) ∧ rowSlot (halfRow yp) < 12 := by
    unfold rowSlot halfRow
    split_ifs <;> omega
  exact ⟨(rowSlot (halfRow yp)).toNat, by omega, by omega⟩

/-- A guard nibble for every three columns places a local column in its register (R105 to R107). -/
theorem regionOffset_add_columnOffset (c : Config) (n : Nat) :
    regionOffset c n + columnOffset c n =
      ((n / c.pw * c.rph * 40 + 40 * (n % c.pw / 3) + 2 + 12 * (n % c.pw % 3) : Nat) : Int) := by
  unfold regionOffset columnOffset
  push_cast
  omega

/-- The slot that column `n` of a half and row slot `t` name (R105 to R108). -/
theorem slotRange_of_column {c : Config} (hlegal : c.legal = true) {h n t : Nat} (hh : h < 2) (hn : n < c.width)
    (ht : t < 12) : SlotRange c h (n / c.pw) (n % c.pw / 3) (n % c.pw % 3) t := by
  obtain ⟨hpanel, -, -, hcolumns⟩ := (legal_iff c).1 hlegal
  have hlocal : n % c.pw < c.pw := Nat.mod_lt n (by omega)
  exact
    { half := hh
      region := Nat.div_lt_of_lt_mul hn
      register := by omega
      column := by omega
      row := ht }

/-- A coordinate in bounds names a slot of the framebuffer (R109 (a), (c)). -/
theorem exists_slot_of_bitIndex {c : Config} (hlegal : c.legal = true) {rot : Rotation} {x y : Int} {k : Nat}
    (hbit : bitIndex c rot x y = some k) :
    ∃ h q r col t, SlotRange c h q r col t ∧ k = slotIndex c h q r col t := by
  obtain ⟨hbounds, rfl⟩ := (bitIndex_eq_some_iff c rot x y k).1 hbit
  obtain ⟨⟨hxlow, hxhigh⟩, hylow, hyhigh⟩ := rotate_onSurface hbounds
  obtain ⟨h, hh, hoffset⟩ := halfOffset_eq_mul c (rotate c rot x y).2
  obtain ⟨n, hn, hcolumn⟩ := halfColumn_onSurface hxlow hxhigh (rotate c rot x y).2
  obtain ⟨t, ht, hrow⟩ := rowSlot_halfRow hylow hyhigh
  refine ⟨h, _, _, _, t, slotRange_of_column hlegal hh hn ht, ?_⟩
  have hregion := regionOffset_add_columnOffset c n
  rw [physicalBitIndex, hoffset, hcolumn, hrow, slotIndex, add_assoc (h * _ : Int), hregion]
  norm_cast
  ring

/-- No coordinate names a guard bit (R109 (c)). -/
theorem guardBit_of_bitIndex {c : Config} (hlegal : c.legal = true) {rot : Rotation} {x y : Int} {k : Nat}
    (hbit : bitIndex c rot x y = some k) : guardBit k = false := by
  obtain ⟨h, q, r, col, t, hslot, rfl⟩ := exists_slot_of_bitIndex hlegal hbit
  exact guardBit_slotIndex c h q r hslot.column hslot.row

end Sys2Proof.Machine
end

section
/-! What a step can do to a guard bit (R58, 20_memory.md; R110, 40_addressing.md; R130 to R133, 41_framebuffer.md). -/

namespace Sys2Proof.Machine

@[simp] theorem Memory.bit_nil (k : Nat) : Memory.bit [] k = false := by
  simp [Memory.bit]

/-- The fill pattern's five bytes are one register with its guard bits 0 (R58, R130, R131). -/
theorem patternByte_guardBit {k : Nat} (hguard : guardBit k = true) :
    (patternByte (k / 8)).getLsbD (k % 8) = false := by
  have hends : k / 8 % 5 = 0 ∧ (k % 8 = 0 ∨ k % 8 = 1) ∨ k / 8 % 5 = 4 ∧ (k % 8 = 6 ∨ k % 8 = 7) := by
    rcases (guardBit_iff k).1 hguard with hleading | htrailing <;> omega
  rcases hends with ⟨hbyte, hbit | hbit⟩ | ⟨hbyte, hbit | hbit⟩ <;> rw [patternByte, hbyte, hbit] <;> rfl

/-- A fill leaves every guard bit 0 (R131, R132). -/
theorem bit_fill_of_guardBit (n : Nat) (b : Bool) {k : Nat} (hguard : guardBit k = true) :
    (Memory.tabulate n (fillByte b)).bit k = false := by
  rw [Memory.bit, Memory.read_tabulate]
  split_ifs
  · cases b
    · exact BitVec.getLsbD_zero
    · exact patternByte_guardBit hguard
  · exact BitVec.getLsbD_zero

/-- A bit that a write of one bit turns to 1 is the bit written, with 1 (R12). -/
theorem Memory.setBit_turns_on {m : Memory} (hm : m.wf) {j k : Nat} {b : Bool} (hoff : m.bit k = false)
    (hon : (m.setBit j b).bit k = true) : k = j ∧ b = true := by
  rw [Memory.bit_setBit hm] at hon
  split_ifs at hon with hkj
  · exact ⟨hkj, hon⟩
  · exact absurd hon (by simp [hoff])

/-- Of the commands only SETBIT turns a guard bit to 1: no coordinate names one, and a fill leaves it 0. -/
theorem exec_turns_on_guardBit {i : Instr} {s t : State} (h : s.Inv) (hidle : s.fsm = .idle)
    (hexec : exec i s = .next t) {k : Nat} (hguard : guardBit k = true) (hoff : s.fb.bit k = false)
    (hon : t.fb.bit k = true) :
    ∃ byteIndex bitOffset, i = .setBit byteIndex bitOffset true ∧ 8 * byteIndex + bitOffset = k := by
  have hkept : t.fb ≠ s.fb := fun hsame => absurd hon (by simp [hsame, hoff])
  rcases exec_idle_cases hidle hexec with ⟨v, rfl⟩ | ⟨j, b, ⟨x, y, -, htarget⟩, -, rfl⟩ |
    ⟨byteIndex, bitOffset, b, rfl, -, rfl⟩ | ⟨b, -, rfl⟩ | ⟨r, -, rfl⟩ | ⟨b, -, rfl⟩ | ⟨-, rfl⟩ | ⟨-, rfl⟩
  · exact absurd rfl hkept
  · obtain ⟨rfl, -⟩ := Memory.setBit_turns_on h.fbForm hoff hon
    have hslot := guardBit_of_bitIndex (h.legal (by simp [hidle])) htarget
    exact absurd hguard (by simp [hslot])
  · obtain ⟨rfl, rfl⟩ := Memory.setBit_turns_on h.fbForm hoff hon
    exact ⟨byteIndex, bitOffset, rfl, rfl⟩
  · exact absurd hon (by simp [bit_fill_of_guardBit _ b hguard])
  · exact absurd rfl hkept
  · exact absurd (by simp) hkept
  · exact absurd rfl hkept
  · exact absurd rfl hkept

/-- Everything a block step can do to the framebuffer: keep it, clear it in a reset, or run a command on it. -/
theorem step_fb_cases {s t : State} (h : step s = .next t) :
    t.fb = s.fb ∨ t.fb = [] ∨
    s.fsm = .idle ∧ ∃ i, decode (presented s).cmdData = .ok i ∧ exec i (takeSample s) = .next t := by
  rcases step_cases h with ⟨-, rfl⟩ | ⟨-, -, hfsm⟩ | ⟨-, hready, -, hcmd⟩ | ⟨-, -, -, rfl⟩
  · exact .inr (.inl (by simp))
  · exact .inl (fsmStep_sameRegisters hfsm).fb
  · rcases commandStep_ready_cases (s := takeSample s) hready hcmd with ⟨code, -, rfl⟩ | hcommand
    · exact .inl rfl
    · exact .inr (.inr hcommand)
  · exact .inl rfl

/-- Settles O57: of what a step can do to the framebuffer only a command turns a guard bit to 1. -/
theorem onlySetBitSetsAGuardBit : Obligations.OnlySetBitSetsAGuardBit := by
  intro s t k hinv hstep hguard hoff hon
  rcases step_fb_cases hstep with hkept | hcleared | ⟨hidle, i, hdecode, hexec⟩
  · exact absurd hon (by simp [hkept, hoff])
  · exact absurd hon (by simp [hcleared])
  · obtain ⟨byteIndex, bitOffset, rfl, hindex⟩ :=
      exec_turns_on_guardBit hinv.takeSample hidle hexec hguard hoff hon
    exact ⟨byteIndex, bitOffset, hdecode, hindex⟩

end Sys2Proof.Machine
end

section
/-! The decoder by its rows: a word's row is the one with its opcode whose fixed bits it has, and a word decodes
exactly when it has such a row (R73 to R76, 30_encoding.md). -/

namespace Sys2Proof

/-- Every row fixes the opcode, so the words of a row have its opcode (R73). -/
theorem opField_of_hits {row : OpRow} (hrow : row ∈ opTable) {w : CmdWord} (h : row.hits w = true) :
    opField w = opField row.pattern := by
  have hmask : ∀ row ∈ opTable, opField row.mask = BitVec.allOnes 4 := by decide
  have hand : opField (w &&& row.mask) = opField w &&& opField row.mask := BitVec.extractLsb'_and
  rw [← (hits_iff row w).1 h, hand, hmask row hrow, BitVec.and_allOnes]

/-- No two rows share an opcode (R73). -/
theorem row_eq_of_opField {row row' : OpRow} (hrow : row ∈ opTable) (hrow' : row' ∈ opTable)
    (h : opField row.pattern = opField row'.pattern) : row = row' := by
  have hnodup : (opTable.map fun row => opField row.pattern).Nodup := by decide
  exact List.inj_on_of_nodup_map hnodup hrow hrow' h

/-- At most one row matches a word (R76). -/
theorem row_eq_of_hits {row row' : OpRow} (hrow : row ∈ opTable) (hrow' : row' ∈ opTable) {w : CmdWord}
    (h : row.hits w = true) (h' : row'.hits w = true) : row = row' :=
  row_eq_of_opField hrow hrow' ((opField_of_hits hrow h).symm.trans (opField_of_hits hrow' h'))

/-- A word of a row decodes to the row's command (R76). -/
theorem decode_of_hits {row : OpRow} (hrow : row ∈ opTable) {w : CmdWord} (h : row.hits w = true) :
    decode w = .ok (row.operands w) := by
  unfold decode
  cases hfound : opTable.find? (·.hits w) with
  | none => exact absurd h (by simpa using List.find?_eq_none.1 hfound row hrow)
  | some found =>
    have hfirst := List.find?_some hfound
    rw [row_eq_of_hits (List.mem_of_find?_eq_some hfound) hrow hfirst h]

/-- A word of no row is rejected (R74 to R76). -/
theorem decode_error_of_no_hit {w : CmdWord} (h : ∀ row ∈ opTable, row.hits w = false) :
    ∃ why, decode w = .error why := by
  have hnone : opTable.find? (·.hits w) = none := List.find?_eq_none.2 (by simpa using h)
  unfold decode
  rw [hnone]
  dsimp only
  split_ifs
  · exact ⟨_, rfl⟩
  · exact ⟨_, rfl⟩

/-- A word decodes to the command that its row reads from it, and to nothing else (R76). -/
theorem decode_eq_ok_iff {w : CmdWord} {i : Instr} :
    decode w = .ok i ↔ ∃ row ∈ opTable, row.hits w = true ∧ row.operands w = i := by
  constructor
  · intro h
    by_cases hhit : ∃ row ∈ opTable, row.hits w = true
    · obtain ⟨row, hrow, hrowHits⟩ := hhit
      rw [decode_of_hits hrow hrowHits] at h
      exact ⟨row, hrow, hrowHits, Except.ok.inj h⟩
    · obtain ⟨why, herror⟩ := decode_error_of_no_hit (w := w) (by simpa using hhit)
      rw [herror] at h
      cases h
  · rintro ⟨row, hrow, hhits, rfl⟩
    exact decode_of_hits hrow hhits

/-- A word whose opcode no row has is rejected (R74). -/
theorem decode_error_of_reserved {w : CmdWord} (h : opField w = 0x0#4 ∨ 0xB#4 ≤ opField w) :
    ∃ why, decode w = .error why := by
  refine decode_error_of_no_hit fun row hrow => Bool.eq_false_iff.2 fun hhits => ?_
  have hused : ∀ row ∈ opTable, ¬ (opField row.pattern = 0x0#4 ∨ 0xB#4 ≤ opField row.pattern) := by decide
  exact hused row hrow (opField_of_hits hrow hhits ▸ h)

/-- Every bit that a row's format requires to be 0 is fixed to 0 by the row (R71, R76). -/
theorem and_mustBeZero_of_hits {row : OpRow} (hrow : row ∈ opTable) {w : CmdWord} (h : row.hits w = true) :
    w &&& row.format.mustBeZero = 0 := by
  have hfixed : ∀ row ∈ opTable, row.mask &&& row.format.mustBeZero = row.format.mustBeZero ∧
      row.pattern &&& row.format.mustBeZero = 0 := by decide
  obtain ⟨hmask, hpattern⟩ := hfixed row hrow
  rw [← hmask, ← BitVec.and_assoc, (hits_iff row w).1 h, hpattern]

/-- A word with a row's opcode and a 1 where the row's format requires a 0 is rejected (R75). -/
theorem decode_error_of_mustBeZero {row : OpRow} (hrow : row ∈ opTable) {w : CmdWord}
    (hop : opField w = opField row.pattern) (hbits : w &&& row.format.mustBeZero ≠ 0) :
    ∃ why, decode w = .error why := by
  refine decode_error_of_no_hit fun row' hrow' => Bool.eq_false_iff.2 fun hhits => ?_
  obtain rfl := row_eq_of_opField hrow hrow' (hop.symm.trans (opField_of_hits hrow' hhits))
  exact hbits (and_mustBeZero_of_hits hrow hhits)

/-- Settles O3: the rows' opcodes differ, so the first row that matches is the only one. -/
theorem decodePicksTheMatchingRow : Obligations.DecodePicksTheMatchingRow := by
  refine ⟨rfl, fun w row hrow h => decode_of_hits hrow ((hits_iff row w).2 h),
    fun w row hrow row' hrow' h h' => ?_, fun w h => decode_error_of_no_hit fun row hrow => ?_⟩
  · rw [row_eq_of_hits hrow hrow' ((hits_iff row w).2 h) ((hits_iff row' w).2 h')]
  · exact Bool.eq_false_iff.2 fun hhits => h row hrow ((hits_iff row w).1 hhits)

/-- Settles O6: each word is evaluated. -/
theorem sampleWordsDecode : Obligations.SampleWordsDecode := by
  unfold Obligations.SampleWordsDecode
  decide

end Sys2Proof
end

section
/-! Encoding and decoding undo each other (R72, R78, 30_encoding.md). -/

namespace Sys2Proof

/-! ### From a command to its word and back -/

/-- The word of a well-formed command has a row, which reads the command back (R72, R76). -/
theorem encoded_row : ∀ i : Instr, Laws.EncodedRow.Statement i
  | .setPixel x y b => Laws.EncodedRow.setPixel x y b
  | .getPixel x y => Laws.EncodedRow.getPixel x y
  | .fill b => Laws.EncodedRow.fill b
  | .setBit byteIndex bitOffset b => Laws.EncodedRow.setBit byteIndex bitOffset b
  | .getBit byteIndex bitOffset => Laws.EncodedRow.getBit byteIndex bitOffset
  | .setRot r => Laws.EncodedRow.setRot r
  | .getWidth => Laws.EncodedRow.getWidth
  | .getHeight => Laws.EncodedRow.getHeight
  | .flush => Laws.EncodedRow.flush
  | .auxClk b => Laws.EncodedRow.auxClk b

/-- Settles O1: the word of a command belongs to the command's own row, which is the one the decoder picks. -/
theorem decodeOfEncode : Obligations.DecodeOfEncode :=
  fun i hwf => decode_eq_ok_iff.2 (encoded_row i hwf)

/-! ### From a word to its command and back -/

/-- Joining two words joins each of their fields. -/
theorem layWord_or (r3 B A : BitVec 16) (r2 : BitVec 6) (r : BitVec 2) (r1 : BitVec 3) (b : BitVec 1) (op : BitVec 4)
    (r3' B' A' : BitVec 16) (r2' : BitVec 6) (r' : BitVec 2) (r1' : BitVec 3) (b' : BitVec 1) (op' : BitVec 4) :
    layWord r3 B A r2 r r1 b op ||| layWord r3' B' A' r2' r' r1' b' op' =
      layWord (r3 ||| r3') (B ||| B') (A ||| A') (r2 ||| r2') (r ||| r') (r1 ||| r1') (b ||| b') (op ||| op') := by
  refine BitVec.eq_of_getLsbD_eq fun i hi => ?_
  simp only [BitVec.getLsbD_or, getLsbD_layWord]
  split_ifs <;> rfl

@[simp] theorem ofBool_getLsbD_zero (b : BitVec 1) : BitVec.ofBool (b.getLsbD 0) = b := by
  revert b; decide

@[simp] theorem and_full_operand (v : BitVec 16) : v &&& 0xFFFF#16 = v := BitVec.and_allOnes

@[simp] theorem and_full_rotation (v : BitVec 2) : v &&& 3#2 = v := BitVec.and_allOnes

@[simp] theorem and_full_state (v : BitVec 1) : v &&& 1#1 = v := BitVec.and_allOnes

/-- A word's operand bits under a mask, with every other bit 0 (R70). -/
theorem and_operandMask (w : CmdWord) (B A : BitVec 16) (r : BitVec 2) (b : BitVec 1) :
    w &&& layWord 0 B A 0 r 0 b 0 = layWord 0 (bField w &&& B) (aField w &&& A) 0 ((rotationField w).code &&& r) 0
      (BitVec.ofBool (stateField w) &&& b) 0 := by
  obtain ⟨r3, B', A', r2, r', r1, b', op, rfl⟩ := layWord_surjective w
  rw [layWord_and, bField_layWord, aField_layWord, rotationField_layWord, stateField_layWord, code_ofCode,
    ofBool_getLsbD_zero]
  simp

/-- A row fixes its opcode and leaves operand bits free, no others (R71, R73). -/
theorem row_layout : ∀ row ∈ opTable, row.pattern = layWord 0 0 0 0 0 0 0 (opField row.pattern) ∧
    ~~~row.mask = layWord 0 (bField (~~~row.mask)) (aField (~~~row.mask)) 0 (rotationField (~~~row.mask)).code 0
      (BitVec.ofBool (stateField (~~~row.mask))) 0 := by
  decide

/-- The word that has a row's fixed bits and takes the free ones from `w`, as its fields. -/
theorem pattern_or_free {row : OpRow} (hrow : row ∈ opTable) (w : CmdWord) :
    row.pattern ||| (w &&& ~~~row.mask) = layWord 0 (bField w &&& bField (~~~row.mask))
      (aField w &&& aField (~~~row.mask)) 0 ((rotationField w).code &&& (rotationField (~~~row.mask)).code) 0
      (BitVec.ofBool (stateField w) &&& BitVec.ofBool (stateField (~~~row.mask))) (opField row.pattern) := by
  obtain ⟨hpattern, hfree⟩ := row_layout row hrow
  calc row.pattern ||| (w &&& ~~~row.mask)
      = layWord 0 0 0 0 0 0 0 (opField row.pattern) ||| (w &&& layWord 0 (bField (~~~row.mask))
          (aField (~~~row.mask)) 0 (rotationField (~~~row.mask)).code 0
          (BitVec.ofBool (stateField (~~~row.mask))) 0) := by rw [← hpattern, ← hfree]
    _ = _ := by rw [and_operandMask, layWord_or]; simp

@[simp] theorem ofInt_xField (w : CmdWord) : BitVec.ofInt 16 (xField w) = aField w := BitVec.ofInt_toInt

@[simp] theorem ofInt_yField (w : CmdWord) : BitVec.ofInt 16 (yField w) = bField w := BitVec.ofInt_toInt

@[simp] theorem ofNat_byteIndexField (w : CmdWord) : BitVec.ofNat 16 (byteIndexField w) = aField w := by
  simp [byteIndexField]

@[simp] theorem ofNat_bitOffsetField (w : CmdWord) : BitVec.ofNat 16 (bitOffsetField w) = bField w &&& 7#16 := by
  rw [bitOffsetField_eq]
  refine BitVec.eq_of_toNat_eq ?_
  rw [BitVec.toNat_and, BitVec.toNat_ofNat, Nat.mod_eq_of_lt (by omega)]
  exact (Nat.and_two_pow_sub_one_eq_mod _ 3).symm

/-- The command a row reads from a word is encoded with the row's fixed bits and the word's free ones (R72, R78). -/
theorem encode_operands {row : OpRow} (hrow : row ∈ opTable) (w : CmdWord) :
    encode (row.operands w) = row.pattern ||| (w &&& ~~~row.mask) := by
  rw [pattern_or_free hrow]
  fin_cases hrow <;>
    simp [rowSetPixel, rowGetPixel, rowFill, rowSetBit, rowGetBit, rowSetRot, rowGetWidth, rowGetHeight, rowFlush,
      rowAuxClk, encode, packWord_eq, bField, aField, rotationField, stateField, opField]

/-- Settles O2: a decoded word has its row's fixed bits. -/
theorem encodeOfDecode : Obligations.EncodeOfDecode := by
  intro w i h
  obtain ⟨row, hrow, hhits, rfl⟩ := decode_eq_ok_iff.1 h
  refine ⟨operands_wf hrow w, ?_⟩
  calc encode (row.operands w)
      = w &&& row.mask ||| w &&& ~~~row.mask := by rw [encode_operands hrow, (hits_iff row w).1 hhits]
    _ = w &&& (row.mask ||| ~~~row.mask) := BitVec.and_or_distrib_left.symm
    _ = w := by rw [BitVec.or_not_self, BitVec.and_allOnes]

end Sys2Proof
end

section
/-! A presented word at a block that is ready or busy: what the step runs, and a word that is no command (R74 to R77,
R84, 30_encoding.md). -/

namespace Sys2Proof.Machine

/-! ### What a step runs -/

/-- A step of a ready block runs the presented word (R84). -/
theorem step_of_ready {s : State} (hready : s.busy = false) (h : commandPresented s) :
    step s = commandStep (presented s).cmdData (takeSample s) := by
  simp [step, h.1, h.2, hready]

/-- A step of a busy block is the flush FSM's (R84, R230). -/
theorem step_of_busy {s : State} (hbusy : s.busy = true) (hreset : (presented s).rst = false) :
    step s = fsmStep (takeSample s) := by
  simp [step, hreset, hbusy]

theorem commandStep_of_decode {w : CmdWord} {i : Instr} (h : decode w = .ok i) (s : State) :
    commandStep w s = exec i s := by
  rw [commandStep, h]

theorem commandStep_of_error {w : CmdWord} {why : Reject} (h : decode w = .error why) (s : State) :
    commandStep w s = acceptIllegal s := by
  rw [commandStep, h]

/-- Settles O49: a ready block runs the presented word, and that is the command it decodes to. -/
theorem stepRunsTheDecodedCommand : Obligations.StepRunsTheDecodedCommand := by
  intro s i hready h hdecode
  rw [step_of_ready (by simpa [cmdReady_eq] using hready) h, commandStep_of_decode hdecode]
  rfl

/-- Settles O41: a held command has no effect, and the flush FSM's step reads no port. -/
theorem commandsAreHeldDuringAFlush : Obligations.CommandsAreHeldDuringAFlush := by
  intro s hbusy
  refine ⟨exec_busy hbusy, fun p q rest hp hq => ?_⟩
  rw [step_of_busy (s := { s with inputs := p :: rest }) hbusy hp,
    step_of_busy (s := { s with inputs := q :: rest }) hbusy hq]
  rfl

/-! ### The word of a command -/

/-- A 64-bit word read by the table's numbering is the word itself (R77). -/
theorem ofNat_toNat_mod (w : CmdWord) : BitVec.ofNat 64 (w.toNat % 2 ^ 64) = w := by
  rw [Nat.mod_eq_of_lt w.isLt, BitVec.ofNat_toNat, BitVec.setWidth_eq]

theorem decodeTableWord_of_decode {w : CmdWord} {i : Instr} (h : decode w = .ok i) :
    decodeTableWord 64 w.toNat = some i := by
  rw [decodeTableWord, if_pos (le_refl 64), ofNat_toNat_mod, h]

/-- A word presented to a ready block leaves the FSM's state as it is (log 2). -/
theorem withFetchWord_of_ready {s : State} (hready : s.busy = false) (w : CmdWord) :
    s.withFetchWord 64 w.toNat =
      { s with inputs := { rst := false, cmdValid := true, cmdData := w } :: s.inputs.tail } := by
  rw [State.withFetchWord, ofNat_toNat_mod, hready]
  rfl

/-- Settles O50: the word decodes to its command, and a step of a ready block runs the decoded command. -/
theorem encodedCommandRunsNext : Obligations.EncodedCommandRunsNext := by
  intro s i hready hwf
  have hdecode : decode (encode i) = .ok i := decodeOfEncode i hwf
  refine ⟨decodeTableWord_of_decode hdecode, ?_⟩
  rw [withFetchWord_of_ready (by simpa [cmdReady_eq] using hready)]
  exact stepRunsTheDecodedCommand
    { s with inputs := { rst := false, cmdValid := true, cmdData := encode i } :: s.inputs.tail } i hready ⟨rfl, rfl⟩
    hdecode

/-! ### A word that is no command -/

/-- In `IDLE` a word that is no command is answered ILLEGAL (R202). -/
theorem step_of_error {s : State} (hidle : s.fsm = .idle) (h : commandPresented s) {why : Reject}
    (hdecode : decode (presented s).cmdData = .error why) : step s = .next (raise .illegal (takeSample s)) := by
  rw [step_of_ready (busy_of_fsm_idle hidle) h, commandStep_of_error hdecode, acceptIllegal,
    accepting_idle (s := takeSample s) hidle]

theorem firstFault_eq (s : State) (code : ErrorCode) : firstFault s code = some (s.fault.getD code) := by
  unfold firstFault
  cases s.fault <;> rfl

/-- An error changes nothing of the block but the fault record (R201). -/
theorem blockOf_raise (code : ErrorCode) (s : State) :
    blockOf (raise code (takeSample s)) =
      blockOf (answered { s with fault := firstFault s code } (rspWord code.status 0)) := by
  rw [firstFault_eq]
  rfl

theorem error_answers_illegal {s : State} (hidle : s.fsm = .idle) (h : commandPresented s)
    (hdecode : ∃ why, decode (presented s).cmdData = .error why) :
    ∃ t, step s = .next t ∧ t.rsp = some 0x00000001 ∧
      blockOf t = blockOf (answered { s with fault := firstFault s .illegal } 0x00000001) := by
  obtain ⟨why, herror⟩ := hdecode
  exact ⟨_, step_of_error hidle h herror, rfl, blockOf_raise .illegal s⟩

/-- Settles O4: no row has a reserved opcode. -/
theorem reservedOpcodesAnswerIllegal : Obligations.ReservedOpcodesAnswerIllegal :=
  fun _ hidle h hop => error_answers_illegal hidle h (decode_error_of_reserved hop)

/-- Settles O5: the word's opcode names its one row, which fixes the must-be-zero bits to 0. -/
theorem mustBeZeroBitsAnswerIllegal : Obligations.MustBeZeroBitsAnswerIllegal :=
  fun _ _ hrow hidle h hop hbits => error_answers_illegal hidle h (decode_error_of_mustBeZero hrow hop hbits)

end Sys2Proof.Machine
end

section
/-! The response of each command (R86, 30_encoding.md): a step answers once or is silent. -/

namespace Sys2Proof.Machine

/-- From `s` to `t` one response is presented and recorded. -/
def AnswersOnce (s t : State) : Prop :=
  t.rsp.isSome = true ∧ t.trace.countP Event.isRsp = s.trace.countP Event.isRsp + 1

/-- From `s` to `t` no response is recorded, and the port stays as it is. -/
def Silent (s t : State) : Prop := t.rsp = s.rsp ∧ t.trace.countP Event.isRsp = s.trace.countP Event.isRsp

theorem Silent.refl (s : State) : Silent s s := ⟨rfl, rfl⟩

theorem silent_emit {e : Event} (he : e.isRsp = false) (s : State) : Silent s (emit e s) :=
  ⟨rfl, by simp [he]⟩

/-- After silent changes a response is the only one. -/
theorem Silent.respond {s u : State} (h : Silent s u) (status : BitVec 4) (value : BitVec 16) :
    AnswersOnce s (respond status value u) :=
  ⟨rfl, by rw [respond_trace, List.countP_append, h.2]; rfl⟩

theorem answersOnce_raise (code : ErrorCode) (s : State) : AnswersOnce s (raise code s) :=
  Silent.respond (u := { s with fault := some (s.fault.getD code) }) ⟨rfl, rfl⟩ _ _

theorem silent_setAux (b : Bool) (s : State) : Silent s (setAux b s) := by
  unfold setAux
  split_ifs
  · exact .refl s
  · exact silent_emit rfl { s with aux := b }

/-- Of the steps of the flush FSM only the last one answers (R86, R158). -/
theorem fsmStep_answers {s t : State} (h : fsmStep s = .next t) :
    s.fsm = .close ∧ AnswersOnce s t ∨ s.fsm ≠ .close ∧ Silent s t := by
  rcases fsmStep_cases h with ⟨hs, rfl⟩ | ⟨hs, rfl⟩ | ⟨hs, rfl⟩ | ⟨hs, -, rfl⟩ | ⟨hs, rfl⟩ | ⟨hs, rfl⟩
  · exact .inr ⟨by rcases hs with hs | hs <;> simp [hs], .refl _⟩
  · exact .inr ⟨by simp [hs], silent_emit rfl { s with session := true, fsm := .latchLo }⟩
  · exact .inr ⟨by simp [hs], rfl, by simp [Event.isRsp]⟩
  · exact .inr ⟨by simp [hs], by simp, by simp [Event.isRsp]⟩
  · exact .inr ⟨by simp [hs], silent_emit rfl { s with latch := true, fsm := .close }⟩
  · exact .inl ⟨hs, (silent_emit rfl { s with session := false, fsm := .idle }).respond _ _⟩

/-- A command of an idle block answers at once, unless it starts a flush (R86, R151). -/
theorem exec_answers {i : Instr} {s t : State} (hidle : s.fsm = .idle) (hne : i ≠ .flush) (h : exec i s = .next t) :
    AnswersOnce s t := by
  rcases exec_idle_cases hidle h with ⟨v, rfl⟩ | ⟨k, b, -, -, rfl⟩ | ⟨_, _, b, -, -, rfl⟩ | ⟨b, -, rfl⟩ |
    ⟨r, -, rfl⟩ | ⟨b, -, rfl⟩ | ⟨hflush, -⟩ | ⟨-, rfl⟩
  · exact Silent.respond ⟨rfl, rfl⟩ _ _
  · exact Silent.respond ⟨rfl, rfl⟩ _ _
  · exact Silent.respond ⟨rfl, rfl⟩ _ _
  · exact Silent.respond ⟨rfl, rfl⟩ _ _
  · exact Silent.respond ⟨rfl, rfl⟩ _ _
  · exact (silent_setAux b s).respond _ _
  · exact absurd hflush hne
  · exact answersOnce_raise .range s

theorem exec_flush_silent {s t : State} (hidle : s.fsm = .idle) (h : exec .flush s = .next t) : Silent s t := by
  rw [exec, execFlush, accepting_idle hidle] at h
  cases h
  exact ⟨rfl, rfl⟩

/-- An accepted word answers at once, unless it starts a flush (R86). -/
theorem commandStep_answers {w : CmdWord} {s t : State} (hready : s.busy = false) (h : commandStep w s = .next t) :
    (s.fsm = .idle ∧ decode w = .ok .flush) ∧ Silent s t ∨
    ¬ (s.fsm = .idle ∧ decode w = .ok .flush) ∧ AnswersOnce s t := by
  by_cases hflush : s.fsm = .idle ∧ decode w = .ok .flush
  · rw [commandStep_of_decode hflush.2] at h
    exact .inl ⟨hflush, exec_flush_silent hflush.1 h⟩
  · refine .inr ⟨hflush, ?_⟩
    rcases commandStep_ready_cases hready h with ⟨code, -, rfl⟩ | ⟨hidle, i, hdecode, hexec⟩
    · exact answersOnce_raise code s
    · exact exec_answers hidle (fun hi => hflush ⟨hidle, hi ▸ hdecode⟩) hexec

/-- The step presents a response: it accepts a word that starts no flush, or ends a flush (R86). -/
def ResponseDue (s : State) : Prop :=
  (s.busy = false ∧ (presented s).cmdValid = true ∧
    ¬ (s.fsm = .idle ∧ decode (presented s).cmdData = .ok .flush)) ∨ s.fsm = .close

theorem step_answers {s t : State} (h : step s = .next t) (hreset : (presented s).rst = false) :
    ResponseDue s ∧ AnswersOnce (takeSample s) t ∨ ¬ ResponseDue s ∧ Silent (takeSample s) t := by
  have hclose : s.busy = false → s.fsm ≠ .close := fun hready hs => by simp [State.busy, hs] at hready
  rcases step_cases h with ⟨hrst, -⟩ | ⟨-, hbusy, hfsm⟩ | ⟨-, hready, hvalid, hcmd⟩ | ⟨-, hready, hvalid, rfl⟩
  · exact absurd hrst (by simp [hreset])
  · rcases fsmStep_answers hfsm with ⟨hs, hanswers⟩ | ⟨hs, hsilent⟩
    · exact .inl ⟨.inr hs, hanswers⟩
    · exact .inr ⟨by simpa [ResponseDue, hbusy] using hs, hsilent⟩
  · rcases commandStep_answers (s := takeSample s) hready hcmd with ⟨hflush, hsilent⟩ | ⟨hflush, hanswers⟩
    · refine .inr ⟨?_, hsilent⟩
      rintro (⟨-, -, hother⟩ | hs)
      · exact hother hflush
      · exact hclose hready hs
    · exact .inl ⟨.inl ⟨hready, hvalid, hflush⟩, hanswers⟩
  · exact .inr ⟨by simp [ResponseDue, hvalid, hclose hready], .refl _⟩

/-- Settles O45: a step answers once where a response is due and is silent elsewhere. -/
theorem oneResponsePerCommand : Obligations.OneResponsePerCommand := by
  intro s t h hreset
  change (t.rsp ≠ none ↔ ResponseDue s) ∧ _
  rcases step_answers h hreset with ⟨hdue, hsome, hcount⟩ | ⟨hdue, hnone, hcount⟩
  · exact ⟨iff_of_true (Option.isSome_iff_ne_none.1 hsome) hdue, by rw [hcount, if_pos hsome]; rfl⟩
  · rw [takeSample_rsp] at hnone
    exact ⟨iff_of_false (not_not_intro hnone) hdue, by rw [hcount, hnone]; rfl⟩

end Sys2Proof.Machine
end

section
/-! The assembler (R78, R79, 30_encoding.md): what it accepts is well-formed. -/

namespace Sys2Proof.Machine

/-- Where the assembly succeeds its command is well-formed (R78). -/
def YieldsWf (result : Except AsmError Instr) : Prop := ∀ i, result = .ok i → i.wf = true

theorem yieldsWf_error (e : AsmError) : YieldsWf (.error e) := nofun

theorem yieldsWf_ranged (i : Instr) : YieldsWf (ranged i) := by
  intro j h
  unfold ranged at h
  split_ifs at h with hwf
  cases h
  exact hwf

theorem yieldsWf_bind {α : Type} (operand : Except AsmError α) {f : α → Except AsmError Instr}
    (h : ∀ a, YieldsWf (f a)) : YieldsWf (operand >>= f) := by
  cases operand with
  | error e => exact yieldsWf_error e
  | ok a => exact h a

/-- Every form of a line reads its operands, three at most, and then checks their ranges (R78, R79). -/
theorem yieldsWf_assemble (op : AsmOp) (args : List AsmArg) : YieldsWf (assemble op args) := by
  unfold assemble
  split
  case h_1 | h_3 | h_6 | h_11 => exact yieldsWf_bind _ fun _ => yieldsWf_ranged _
  case h_5 => exact yieldsWf_bind _ fun _ => yieldsWf_bind _ fun _ => yieldsWf_ranged _
  case h_4 => exact yieldsWf_bind _ fun _ => yieldsWf_bind _ fun _ => yieldsWf_bind _ fun _ => yieldsWf_ranged _
  case h_18 => exact yieldsWf_error _
  all_goals exact yieldsWf_ranged _

theorem yieldsWf_assembleLine (line : List Char) : YieldsWf (assembleLine line) := by
  unfold assembleLine
  dsimp only
  split
  · exact yieldsWf_error _
  · split
    · exact yieldsWf_error _
    · exact yieldsWf_assemble _ _

/-- Settles O7: an assembled command is well-formed, so its word decodes to it. -/
theorem assembledLinesHaveWords : Obligations.AssembledLinesHaveWords := fun line i h =>
  have hwf := yieldsWf_assembleLine line i h
  ⟨hwf, decodeOfEncode i hwf⟩

/-- Settles O8: both sides have the same operands, or both refuse a rotation's name where a number is due. -/
theorem pseudoInstructionsExpand : Obligations.PseudoInstructionsExpand := by
  intro x y
  refine ⟨rfl, rfl, ?_, ?_, rfl, rfl⟩
  · cases x <;> cases y <;> rfl
  · cases x <;> cases y <;> rfl

end Sys2Proof.Machine
end

section
/-! The host's surface and the physical one: when a coordinate is out of bounds, and that every rotation is one-to-one
from the one surface onto the other (R101 to R103, R116, 40_addressing.md). -/

namespace Sys2Proof.Machine

/-! ### The size the host sees -/

/-- A quarter turn swaps the width and the height (R101). -/
theorem rotatedWidth_eq (c : Config) (r : Rotation) :
    rotatedWidth c r = if r = .deg0 ∨ r = .deg180 then c.pw * c.pc else 24 := by
  cases r <;> rfl

theorem rotatedHeight_eq (c : Config) (r : Rotation) :
    rotatedHeight c r = if r = .deg0 ∨ r = .deg180 then 24 else c.pw * c.pc := by
  cases r <;> rfl

/-- The four ways out of bounds (R102). -/
theorem bitIndex_eq_none_iff_outside (c : Config) (r : Rotation) (x y : Int) :
    bitIndex c r x y = none ↔
      x < 0 ∨ y < 0 ∨ (rotatedWidth c r : Int) ≤ x ∨ (rotatedHeight c r : Int) ≤ y := by
  rw [bitIndex_eq_none_iff, Bool.eq_false_iff, ne_eq, inBounds_iff]
  omega

/-- Settles O10: the four ways out of bounds, with the rotated size written out. -/
theorem outOfBoundsExactly : Obligations.OutOfBoundsExactly := by
  intro c r x y
  rw [bitIndex_eq_none_iff_outside, rotatedWidth_eq, rotatedHeight_eq]
  push_cast
  rfl

/-! ### The rotations -/

/-- A physical coordinate lies on the surface of `W` by `H` pixels (R8). -/
def OnSurface (c : Config) (p : Int × Int) : Prop :=
  0 ≤ p.1 ∧ p.1 < c.width ∧ 0 ≤ p.2 ∧ p.2 < 24

/-- Every rotation takes the host's surface into the physical one, and nothing else (R102, R103). -/
theorem inBounds_iff_onSurface (c : Config) (r : Rotation) (x y : Int) :
    inBounds c r x y = true ↔ OnSurface c (rotate c r x y) := by
  constructor
  · intro h
    obtain ⟨⟨hxlow, hxhigh⟩, hylow, hyhigh⟩ := rotate_onSurface h
    exact ⟨hxlow, hxhigh, hylow, hyhigh⟩
  · rintro ⟨hxlow, hxhigh, hylow, hyhigh⟩
    rw [inBounds_iff]
    cases r <;> simp only [rotatedWidth, rotatedHeight, Config.height, rotate, transform] at * <;> omega

/-- The rotation that undoes a rotation (R116). -/
def oppositeRotation : Rotation → Rotation
  | .deg0 => .deg0
  | .deg90 => .deg270
  | .deg180 => .deg180
  | .deg270 => .deg90

/-- The host's coordinate of a physical one: the opposite transform, by the size the host sees (R101, R103, R116). -/
def unrotate (c : Config) (r : Rotation) (p : Int × Int) : Int × Int :=
  transform (rotatedWidth c r) (rotatedHeight c r) (oppositeRotation r) p.1 p.2

theorem rotate_eq_iff (c : Config) (r : Rotation) (x y : Int) (p : Int × Int) :
    rotate c r x y = p ↔ (x, y) = unrotate c r p := by
  cases r <;>
    simp only [rotate, unrotate, transform, oppositeRotation, rotatedWidth, rotatedHeight, Prod.ext_iff] <;> omega

theorem rotate_unrotate (c : Config) (r : Rotation) (p : Int × Int) :
    rotate c r (unrotate c r p).1 (unrotate c r p).2 = p :=
  (rotate_eq_iff c r _ _ p).2 rfl

/-- Under one rotation distinct coordinates stay distinct (R103). -/
theorem rotate_injective {c : Config} {r : Rotation} {x y x' y' : Int} (h : rotate c r x y = rotate c r x' y') :
    x = x' ∧ y = y' := by
  have hfirst := (rotate_eq_iff c r x y _).1 h
  have hsecond := (rotate_eq_iff c r x' y' _).1 rfl
  exact Prod.mk.inj (hfirst.trans hsecond.symm)

/-- Settles O11: the bounds go over under each transform, and each has its inverse. -/
theorem checkFirstIsTransformFirst : Obligations.CheckFirstIsTransformFirst := fun c r =>
  ⟨inBounds_iff_onSurface c r, fun xp yp =>
    ⟨(unrotate c r (xp, yp)).1, (unrotate c r (xp, yp)).2, rotate_unrotate c r (xp, yp),
      fun _ _ h => rotate_injective (h.trans (rotate_unrotate c r (xp, yp)).symm)⟩⟩

theorem transform_deg180_deg180 (w h x y : Int) :
    transform w h .deg180 (transform w h .deg180 x y).1 (transform w h .deg180 x y).2 = (x, y) := by
  simp only [transform, Prod.mk.injEq]
  omega

theorem transform_deg90_deg270 (w h x y : Int) :
    transform h w .deg270 (transform w h .deg90 x y).1 (transform w h .deg90 x y).2 = (x, y) := by
  simp only [transform, Prod.mk.injEq, true_and]
  omega

/-- Settles O12, by the two round trips. -/
theorem rotationRoundTrips : Obligations.RotationRoundTrips := fun w h x y =>
  ⟨transform_deg180_deg180 w h x y, transform_deg90_deg270 w h x y⟩

end Sys2Proof.Machine
end

section
/-! The Addressing Engine and the inverse of R117: a coordinate names a bit exactly when the bit is a pixel bit and the
coordinate's transform is the physical one computed from the bit's slot (R104 to R109, R117, 40_addressing.md). -/

namespace Sys2Proof.Machine

/-! ### The physical coordinate of a half's column and row slot -/

/-- The physical coordinate of column `n` of half `h` in row slot `t` (R104, R108, R117). -/
def pixelAt (c : Config) (h n t : Nat) : Int × Int :=
  if h = 0 then (n, halfRowOfSlot t) else (c.width - 1 - n, 23 - halfRowOfSlot t)

/-- The V shape of R108 is undone by R117. -/
theorem rowSlot_halfRowOfSlot {t : Nat} (ht : t < 12) :
    (halfRowOfSlot t : Int) < 12 ∧ rowSlot (halfRowOfSlot t) = t := by
  unfold rowSlot halfRowOfSlot
  split_ifs <;> omega

theorem halfRowOfSlot_rowSlot {yh : Int} (hlow : 0 ≤ yh) (hhigh : yh < 12) :
    ∃ t : Nat, t < 12 ∧ (halfRowOfSlot t : Int) = yh := by
  refine ⟨(rowSlot yh).toNat, ?_⟩
  unfold rowSlot halfRowOfSlot
  split_ifs <;> omega

theorem pixelAt_onSurface {c : Config} (h : Nat) {n t : Nat} (hn : n < c.width) (ht : t < 12) :
    OnSurface c (pixelAt c h n t) := by
  have hrow := (rowSlot_halfRowOfSlot ht).1
  unfold OnSurface pixelAt
  split_ifs <;> dsimp only <;> omega

/-- Every pixel of the surface lies in one of the two halves (R104). -/
theorem exists_pixelAt_of_onSurface {c : Config} {p : Int × Int} (hp : OnSurface c p) :
    ∃ h n t : Nat, h < 2 ∧ n < c.width ∧ t < 12 ∧ p = pixelAt c h n t := by
  obtain ⟨xp, yp⟩ := p
  obtain ⟨hxlow, hxhigh, hylow, hyhigh⟩ := hp
  dsimp only at hxlow hxhigh hylow hyhigh
  by_cases hhalf : yp < 12
  · obtain ⟨t, ht, hrow⟩ := halfRowOfSlot_rowSlot hylow hhalf
    refine ⟨0, xp.toNat, t, by omega, by omega, ht, ?_⟩
    rw [pixelAt, if_pos rfl, hrow, Int.toNat_of_nonneg hxlow]
  · obtain ⟨t, ht, hrow⟩ := halfRowOfSlot_rowSlot (yh := 23 - yp) (by omega) (by omega)
    refine ⟨1, (c.width - 1 - xp).toNat, t, by omega, by omega, ht, ?_⟩
    rw [pixelAt, if_neg one_ne_zero, hrow, Int.toNat_of_nonneg (by omega), sub_sub_cancel, sub_sub_cancel]

/-- Steps 2 to 7 take the coordinate apart into its half, its column and its row slot again (R104 to R109). -/
theorem physicalBitIndex_pixelAt (c : Config) {h n t : Nat} (hh : h < 2) (ht : t < 12) :
    physicalBitIndex c (pixelAt c h n t).1 (pixelAt c h n t).2 =
      (slotIndex c h (n / c.pw) (n % c.pw / 3) (n % c.pw % 3) t : Nat) := by
  obtain ⟨hrowlt, hrow⟩ := rowSlot_halfRowOfSlot ht
  have hparts : halfOffset c (pixelAt c h n t).2 = h * c.halfBits ∧
      halfColumn c (pixelAt c h n t).1 (pixelAt c h n t).2 = n ∧ rowSlot (halfRow (pixelAt c h n t).2) = t := by
    obtain rfl | rfl : h = 0 ∨ h = 1 := by omega
    · have htop : ¬ (12 : Int) ≤ halfRowOfSlot t := by omega
      simp [pixelAt, halfOffset, halfColumn, halfRow, htop, hrow]
    · have hbottom : (12 : Int) ≤ 23 - halfRowOfSlot t := by omega
      simp [pixelAt, halfOffset, halfColumn, halfRow, hbottom, hrow]
  obtain ⟨hoffset, hcolumn, hslot⟩ := hparts
  have hregion := regionOffset_add_columnOffset c n
  rw [physicalBitIndex, hoffset, hcolumn, hslot, slotIndex, add_assoc (h * _ : Int), hregion]
  norm_cast
  ring

/-! ### The pixel of a bit -/

theorem pixelOf_eq_pixelAt (c : Config) (k : Nat) :
    pixelOf c k = pixelAt c (halfOf c k) (regionOf c k * c.pw + localColumnOf c k) (rowSlotOf k) := rfl

/-- R117 computes a slot's coordinate from the slot's parts. -/
theorem pixelOf_slotIndex {c : Config} {h q r col t : Nat} (hslot : SlotRange c h q r col t) :
    pixelOf c (slotIndex c h q r col t) = pixelAt c h (q * c.pw + (3 * r + col)) t := by
  rw [pixelOf_eq_pixelAt, hslot.halfOf_slotIndex, hslot.regionOf_slotIndex, hslot.localColumnOf_slotIndex,
    hslot.rowSlotOf_slotIndex]

/-- The coordinate computed from a pixel bit lies on the surface and has that bit (R109 (d), R117). -/
theorem physicalBitIndex_pixelOf {c : Config} {k : Nat} (hpixel : pixelBit c k = true) :
    OnSurface c (pixelOf c k) ∧ physicalBitIndex c (pixelOf c k).1 (pixelOf c k).2 = k := by
  obtain ⟨hcount, hguard, hlocal⟩ := (pixelBit_iff c k).1 hpixel
  have hslot := slotRange_of_bit hcount hguard
  have hcolumn := hslot.column
  have hlocalColumn : localColumnOf c k = 3 * registerOf c k + columnSlotOf k := rfl
  have hdivMod : (regionOf c k * c.pw + localColumnOf c k) / c.pw = regionOf c k ∧
      (regionOf c k * c.pw + localColumnOf c k) % c.pw = localColumnOf c k :=
    (Nat.div_mod_unique (Nat.zero_lt_of_lt hlocal)).2 ⟨by ring, hlocal⟩
  have hregister : localColumnOf c k / 3 = registerOf c k ∧ localColumnOf c k % 3 = columnSlotOf k := by omega
  have hwidth : regionOf c k * c.pw + localColumnOf c k < c.width :=
    calc regionOf c k * c.pw + localColumnOf c k
        < c.pw * (regionOf c k + 1) := by rw [Nat.mul_succ, Nat.mul_comm]; omega
      _ ≤ c.width := Nat.mul_le_mul_left c.pw hslot.region
  refine ⟨pixelAt_onSurface _ hwidth hslot.row, ?_⟩
  rw [pixelOf_eq_pixelAt, physicalBitIndex_pixelAt c hslot.half hslot.row, hdivMod.1, hdivMod.2, hregister.1,
    hregister.2, ← eq_slotIndex_of_bit hguard]

/-- A coordinate of the surface has a pixel bit, from which it is computed (R109 (c), R117). -/
theorem pixelOf_physicalBitIndex {c : Config} (hlegal : c.legal = true) {p : Int × Int} (hp : OnSurface c p) :
    pixelBit c (physicalBitIndex c p.1 p.2).toNat = true ∧ pixelOf c (physicalBitIndex c p.1 p.2).toNat = p := by
  obtain ⟨h, n, t, hh, hn, ht, rfl⟩ := exists_pixelAt_of_onSurface hp
  have hslot := slotRange_of_column hlegal hh hn ht
  have hlocal : 3 * (n % c.pw / 3) + n % c.pw % 3 = n % c.pw := Nat.div_add_mod _ _
  rw [physicalBitIndex_pixelAt c hh ht, Int.toNat_natCast, hslot.pixelBit_slotIndex, pixelOf_slotIndex hslot, hlocal,
    Nat.div_add_mod']
  exact ⟨decide_eq_true (Nat.mod_lt n (Nat.pos_of_mul_pos_right (Nat.zero_lt_of_lt hn))), rfl⟩

/-- A coordinate names exactly the pixel bit that R117 maps to its transform (R109, R117). -/
theorem bitIndex_eq_some_iff_pixelOf {c : Config} (hlegal : c.legal = true) (rot : Rotation) (x y : Int) (k : Nat) :
    bitIndex c rot x y = some k ↔ pixelBit c k = true ∧ rotate c rot x y = pixelOf c k := by
  rw [bitIndex_eq_some_iff, inBounds_iff_onSurface]
  constructor
  · rintro ⟨hsurface, rfl⟩
    obtain ⟨hpixel, hinverse⟩ := pixelOf_physicalBitIndex hlegal hsurface
    exact ⟨hpixel, hinverse.symm⟩
  · rintro ⟨hpixel, hrotate⟩
    obtain ⟨hsurface, hindex⟩ := physicalBitIndex_pixelOf hpixel
    rw [hrotate, hindex]
    exact ⟨hsurface, Int.toNat_natCast k⟩

/-! ### What the Addressing Engine names -/

/-- Settles O13: a coordinate names a slot, and slots lie inside the framebuffer. -/
theorem bitIndexInsideFramebuffer : Obligations.BitIndexInsideFramebuffer := by
  intro c rot x y k hlegal hbit
  obtain ⟨h, q, r, col, t, hslot, rfl⟩ := exists_slot_of_bitIndex hlegal hbit
  exact hslot.slotIndex_lt_bitCount

/-- Settles O14: both coordinates have the transform that R117 computes from the bit. -/
theorem bitIndexOneToOne : Obligations.BitIndexOneToOne := by
  intro c rot x y x' y' k hlegal hbit hbit'
  obtain ⟨-, hrotate⟩ := (bitIndex_eq_some_iff_pixelOf hlegal rot x y k).1 hbit
  obtain ⟨-, hrotate'⟩ := (bitIndex_eq_some_iff_pixelOf hlegal rot x' y' k).1 hbit'
  exact rotate_injective (hrotate.trans hrotate'.symm)

/-- A pixel bit is named by the coordinate whose transform R117 computes from it (R109 (d)). -/
theorem exists_bitIndex_iff {c : Config} (hlegal : c.legal = true) (rot : Rotation) (k : Nat) :
    (∃ x y, bitIndex c rot x y = some k) ↔ pixelBit c k = true := by
  simp only [bitIndex_eq_some_iff_pixelOf hlegal]
  constructor
  · rintro ⟨x, y, hpixel, -⟩
    exact hpixel
  · intro hpixel
    exact ⟨_, _, hpixel, rotate_unrotate c rot (pixelOf c k)⟩

/-- The three classes of bits exclude each other (R58, R59). -/
theorem pixelBit_excludes {c : Config} {k : Nat} (hpixel : pixelBit c k = true) :
    guardBit k = false ∧ blankColumnBit c k = false := by
  obtain ⟨-, hguard, hlocal⟩ := (pixelBit_iff c k).1 hpixel
  refine ⟨hguard, Bool.eq_false_iff.2 fun hblank => ?_⟩
  obtain ⟨-, -, hcolumn⟩ := (blankColumnBit_iff c k).1 hblank
  omega

/-- Settles O15: the bits named are the pixel bits, which are of no other class. -/
theorem bitIndexProducesExactlyThePixelBits : Obligations.BitIndexProducesExactlyThePixelBits :=
  fun _ rot k hlegal => ⟨exists_bitIndex_iff hlegal rot k, pixelBit_excludes⟩

/-- Settles O17: a slot below the panel's width is a pixel bit, and R117 takes it apart into its parts. -/
theorem inverseMapping : Obligations.InverseMapping := by
  intro c h q r col t hlegal hh hq hr hcol ht hlocal xp yp
  have hslot : SlotRange c h q r col t := ⟨hh, hq, hr, hcol, ht⟩
  have hpixel : pixelBit c (slotIndex c h q r col t) = true :=
    hslot.pixelBit_slotIndex.trans (decide_eq_true hlocal)
  have hrow : (halfRowOfSlot t : Int) = if 6 ≤ t then (t : Int) - 6 else 11 - t := by
    unfold halfRowOfSlot
    split_ifs <;> omega
  rw [bitIndex_eq_some_iff_pixelOf hlegal, pixelOf_slotIndex hslot, pixelAt, hrow, Config.width]
  push_cast
  exact and_iff_right hpixel

end Sys2Proof.Machine
end

section
/-! The commands of the Addressing Engine in `IDLE`, each with its whole effect (R110 to R115, 40_addressing.md). -/

namespace Sys2Proof.Machine

/-! ### Answers -/

/-- The chain does not react to a response (R168). -/
theorem respond_eq_answered (status : BitVec 4) (value : BitVec 16) (s : State) :
    respond status value s = answered s (rspWord status value) := rfl

theorem rspWord_ok_zero : rspWord statusOk 0 = 0x00000000 := rfl

theorem rspWord_pixelValue (b : Bool) :
    rspWord statusOk (pixelValue b) = if b then 0x00030000 else 0x00020000 := by
  cases b <;> rfl

/-- The value field carries the value whole (R85). -/
theorem rspWord_value (status : BitVec 4) (value : BitVec 16) : (rspWord status value).extractLsb' 16 16 = value :=
  (BitVec.extractLsb'_append_eq_of_le (xhi := value ++ 0#12) (by decide)).trans BitVec.extractLsb'_append_eq_left

/-- Below the value an answer with status `OK` is 0 (R85, R200). -/
theorem rspWord_ok_below (value : BitVec 16) : (rspWord statusOk value).extractLsb' 0 16 = 0 := by
  have hfields : rspWord statusOk value = value ++ (0#12 ++ statusOk) := BitVec.append_assoc
  exact hfields ▸ BitVec.extractLsb'_append_eq_right

/-! ### SETPIXEL and GETPIXEL -/

/-- A coordinate names a bit of a byte of the framebuffer (R109 (a)). -/
theorem byte_lt_of_bitIndex {c : Config} (hlegal : c.legal = true) {rot : Rotation} {x y : Int} {k : Nat}
    (hbit : bitIndex c rot x y = some k) : k / 8 < c.byteCount := by
  have hinside := bitIndexInsideFramebuffer c rot x y k hlegal hbit
  have hbits := bitCount_eq c
  omega

section
variable {s : State} (hidle : s.fsm = .idle) {x y : Int}
include hidle

theorem exec_setPixel_of_inside (hlegal : s.cfg.legal = true) {k : Nat} (hbit : bitIndex s.cfg s.rot x y = some k)
    (b : Bool) : exec (.setPixel x y b) s = .next (answered { s with fb := s.fb.setBit k b } 0x00000000) := by
  rw [exec, execSetPixel, accepting_idle hidle, pixelTarget, hbit]
  exact if_pos (byte_lt_of_bitIndex hlegal hbit)

theorem exec_setPixel_of_outside (hbit : bitIndex s.cfg s.rot x y = none) (b : Bool) :
    exec (.setPixel x y b) s = .next (answered s 0x00000000) := by
  rw [exec, execSetPixel, accepting_idle hidle, pixelTarget, hbit]
  rfl

theorem exec_getPixel_of_inside (hlegal : s.cfg.legal = true) {k : Nat} (hbit : bitIndex s.cfg s.rot x y = some k) :
    exec (.getPixel x y) s = .next (answered s (if s.fb.bit k then 0x00030000 else 0x00020000)) := by
  rw [exec, execGetPixel, accepting_idle hidle, pixelTarget, hbit, ← rspWord_pixelValue]
  exact if_pos (byte_lt_of_bitIndex hlegal hbit)

theorem exec_getPixel_of_outside (hbit : bitIndex s.cfg s.rot x y = none) :
    exec (.getPixel x y) s = .next (answered s 0x00000000) := by
  rw [exec, execGetPixel, accepting_idle hidle, pixelTarget, hbit]
  rfl

end

/-- Settles O18: the write of one bit, and what it leaves alone. -/
theorem setPixelWritesOneBit : Obligations.SetPixelWritesOneBit := fun s _ _ b k hidle hlegal hform hbit =>
  ⟨s.fb.setBit k b, exec_setPixel_of_inside hidle hlegal hbit b, Memory.setBit_wf hform k b,
    Memory.bit_setBit hform k b, fun _ hbyte => Memory.read_setBit_of_ne hform k b hbyte⟩

/-- Settles O19: the four ways out of bounds are those in which no bit is named. -/
theorem setPixelOutOfBoundsIsIgnored : Obligations.SetPixelOutOfBoundsIsIgnored := fun s x y b hidle houtside =>
  exec_setPixel_of_outside hidle ((bitIndex_eq_none_iff_outside s.cfg s.rot x y).2 houtside) b

/-- Settles O20, by whether the coordinate names a bit. -/
theorem getPixelReadsOneBit : Obligations.GetPixelReadsOneBit := fun _ _ _ hidle hlegal =>
  ⟨fun _ hbit => exec_getPixel_of_inside hidle hlegal hbit, exec_getPixel_of_outside hidle⟩

/-! ### SETROT, GETWIDTH and GETHEIGHT -/

/-- Settles O22: an accepted SETROT writes its register and answers. -/
theorem setRotWritesTheRotation : Obligations.SetRotWritesTheRotation := by
  intro s r hidle
  rw [exec, execSetRot, accepting_idle hidle, respond_eq_answered, rspWord_ok_zero]

/-- Both sizes fit the value field (R9, R85, R101). -/
theorem rotated_size_lt {c : Config} (hlegal : c.legal = true) (r : Rotation) :
    rotatedWidth c r < 2 ^ 16 ∧ rotatedHeight c r < 2 ^ 16 := by
  have hwidth := width_le hlegal
  cases r <;> simp only [rotatedWidth, rotatedHeight, Config.height] <;> omega

theorem rspWord_value_toNat (status : BitVec 4) {n : Nat} (hn : n < 2 ^ 16) :
    ((rspWord status (BitVec.ofNat 16 n)).extractLsb' 16 16).toNat = n := by
  rw [rspWord_value, BitVec.toNat_ofNat, Nat.mod_eq_of_lt hn]

/-- Settles O23: each answers its size, which fits the value field. -/
theorem sizeQueriesAnswerTheRotatedSize : Obligations.SizeQueriesAnswerTheRotatedSize := by
  intro s hidle hlegal
  obtain ⟨hwidth, hheight⟩ := rotated_size_lt hlegal s.rot
  refine ⟨rspWord statusOk (BitVec.ofNat 16 (rotatedWidth s.cfg s.rot)),
    rspWord statusOk (BitVec.ofNat 16 (rotatedHeight s.cfg s.rot)), ?_, ?_, ?_, ?_, rspWord_ok_below _,
    rspWord_ok_below _⟩
  · rw [exec, execGetWidth, accepting_idle hidle, respond_eq_answered]
  · rw [exec, execGetHeight, accepting_idle hidle, respond_eq_answered]
  · rw [rspWord_value_toNat statusOk hwidth, rotatedWidth_eq]
  · rw [rspWord_value_toNat statusOk hheight, rotatedHeight_eq]

end Sys2Proof.Machine
end

section
/-! The block never stops (R201, R235, I12): the two places that could raise the model's fault are out of reach. -/

namespace Sys2Proof.Machine

/-- Every command of an idle block goes on: a coordinate in bounds names a bit inside the framebuffer (R109 (a)). -/
theorem exec_goesOn {s : State} (hidle : s.fsm = .idle) (hlegal : s.cfg.legal = true) (i : Instr) :
    goesOn (exec i s) := by
  cases i with
  | setPixel x y b =>
    cases hbit : bitIndex s.cfg s.rot x y with
    | none => exact ⟨_, exec_setPixel_of_outside hidle hbit b⟩
    | some k => exact ⟨_, exec_setPixel_of_inside hidle hlegal hbit b⟩
  | getPixel x y =>
    cases hbit : bitIndex s.cfg s.rot x y with
    | none => exact ⟨_, exec_getPixel_of_outside hidle hbit⟩
    | some k => exact ⟨_, exec_getPixel_of_inside hidle hlegal hbit⟩
  | setBit byteIndex bitOffset b =>
    rw [exec, execSetBit, accepting_idle hidle]
    cases bitTarget s byteIndex bitOffset <;> exact ⟨_, rfl⟩
  | getBit byteIndex bitOffset =>
    rw [exec, execGetBit, accepting_idle hidle]
    cases bitTarget s byteIndex bitOffset <;> exact ⟨_, rfl⟩
  | fill | setRot | getWidth | getHeight | flush | auxClk => exact ⟨_, accepting_idle hidle _⟩

/-- A ready block answers every word or takes it as a command (R84, R202, R203). -/
theorem commandStep_goesOn {s : State} (h : s.Inv) (hready : s.busy = false) (w : CmdWord) :
    goesOn (commandStep w s) := by
  rcases (busy_eq_false_iff s).1 hready with hidle | hcfg
  · cases hdecode : decode w with
    | ok i => exact commandStep_of_decode hdecode s ▸ exec_goesOn hidle (h.legal (by simp [hidle])) i
    | error why => exact ⟨_, (commandStep_of_error hdecode s).trans (accepting_idle hidle _)⟩
  · cases hdecode : decode w with
    | ok i => exact ⟨_, (commandStep_of_decode hdecode s).trans (exec_cfgErr hcfg i)⟩
    | error why => exact ⟨_, (commandStep_of_error hdecode s).trans (accepting_cfgErr hcfg _)⟩

/-- The flush FSM goes on: its cursor lies inside the framebuffer while it is read (R28, R152). -/
theorem fsmStep_goesOn {s : State} (h : s.Inv) : goesOn (fsmStep s) := by
  unfold fsmStep
  cases hs : s.fsm with
  | shift => exact ⟨_, if_pos (h.cursorInside hs)⟩
  | idle | openSession | latchLo | latchHi | close | cfgErr => exact ⟨_, rfl⟩

/-- Settles O54, by the cases of a block step. -/
theorem theBlockAlwaysGoesOn : Obligations.TheBlockAlwaysGoesOn := by
  intro s h
  unfold step
  split_ifs with hreset hbusy hvalid
  · exact ⟨_, rfl⟩
  · exact fsmStep_goesOn h.takeSample
  · exact commandStep_goesOn h.takeSample (Bool.eq_false_iff.2 hbusy) _
  · exact ⟨_, rfl⟩

end Sys2Proof.Machine
end

section
/-! FILL, SETBIT and GETBIT in `IDLE`, each with its whole effect (R130 to R136, 41_framebuffer.md). -/

namespace Sys2Proof.Machine

/-! ### Bytes, bits and the fill pattern -/

theorem Memory.bit_of_byte (m : Memory) (a : Nat) {j : Nat} (hj : j ≤ 7) :
    m.bit (8 * a + j) = (m.read a).getLsbD j := by
  have hbyte : (8 * a + j) / 8 = a := by omega
  have hoffset : (8 * a + j) % 8 = j := by omega
  rw [Memory.bit, hbyte, hoffset]

/-- The pattern's five bytes, as R130 lists them. -/
theorem patternByte_eq_getD (a : Nat) : patternByte a = [0xFC, 0xFF, 0xFF, 0xFF, 0x3F].getD (a % 5) 0x00 := by
  have hlt : a % 5 < 5 := Nat.mod_lt a (by decide)
  unfold patternByte
  interval_cases a % 5 <;> rfl

/-- The pattern repeats with the registers: its five bytes are the 40 bits of one (R57, R130). -/
theorem patternByte_register (k : Nat) : patternByte (k / 8) = patternByte (k % 40 / 8) := by
  have hbyte : k / 8 % 5 = k % 40 / 8 % 5 := by omega
  rw [patternByte_eq_getD, patternByte_eq_getD, hbyte]

/-- Within a register the pattern is 1 everywhere but in the guard bits (R58, R130). -/
theorem patternByte_of_register_bit :
    ∀ j < 40, (patternByte (j / 8)).getLsbD (j % 8) = !guardBit j := by
  decide

/-- The pattern holds 1 in every bit but the guard bits (R131). -/
theorem getLsbD_patternByte (k : Nat) : (patternByte (k / 8)).getLsbD (k % 8) = !guardBit k := by
  have hoffset : k % 8 = k % 40 % 8 := by omega
  have hguard : guardBit (k % 40) = guardBit k := by simp [guardBit, registerOffset]
  rw [patternByte_register, hoffset, patternByte_of_register_bit _ (Nat.mod_lt k (by decide)), hguard]

/-- A fill sets every bit of the framebuffer but the guard bits to its state, and these to 0 (R131, R132). -/
theorem bit_fill {c : Config} {k : Nat} (hk : k < c.bitCount) (b : Bool) :
    (Memory.tabulate c.byteCount (fillByte b)).bit k = (b && !guardBit k) := by
  have hbyte : k / 8 < c.byteCount := by
    have hbits := bitCount_eq c
    omega
  rw [Memory.bit, Memory.read_tabulate, if_pos hbyte]
  cases b with
  | false => exact BitVec.getLsbD_zero
  | true => exact getLsbD_patternByte k

/-! ### Answers -/

theorem rspWord_bitValue (b : Bool) :
    rspWord statusOk ((BitVec.ofBool b).setWidth 16) = if b then 0x00010000 else 0x00000000 := by
  cases b <;> rfl

/-- An error is an answer with its status, and the fault record (R201). -/
theorem raise_eq_answered (code : ErrorCode) (s : State) :
    raise code s = answered { s with fault := firstFault s code } (rspWord code.status 0) := by
  rw [firstFault_eq]
  rfl

/-! ### The commands' effects -/

/-- What an accepted FILL makes of the state (R130). -/
abbrev filled (s : State) (b : Bool) : State :=
  answered { s with fb := Memory.tabulate s.cfg.byteCount (fillByte b) } 0x00000000

/-- What an accepted write of one bit makes of the state, by SETPIXEL or SETBIT (R110, R133). -/
abbrev bitWritten (s : State) (k : Nat) (b : Bool) : State :=
  answered { s with fb := s.fb.setBit k b } 0x00000000

theorem bit_bitWritten {s : State} (hform : s.fb.wf) (k : Nat) (b : Bool) : (bitWritten s k b).fb.bit k = b :=
  (Memory.bit_setBit hform k b k).trans (if_pos rfl)

section
variable {s : State} (hidle : s.fsm = .idle)
include hidle

theorem exec_fill (b : Bool) : exec (.fill b) s = .next (filled s b) := by
  rw [exec, execFill, accepting_idle hidle, respond_eq_answered, rspWord_ok_zero]

variable {byteIndex : Nat}

theorem exec_setBit_of_inside (hinside : byteIndex < s.cfg.byteCount) (bitOffset : Nat) (b : Bool) :
    exec (.setBit byteIndex bitOffset b) s = .next (bitWritten s (8 * byteIndex + bitOffset) b) := by
  rw [exec, execSetBit, accepting_idle hidle, bitTarget, if_pos hinside]
  rfl

theorem exec_getBit_of_inside (hinside : byteIndex < s.cfg.byteCount) (bitOffset : Nat) :
    exec (.getBit byteIndex bitOffset) s =
      .next (answered s (if s.fb.bit (8 * byteIndex + bitOffset) then 0x00010000 else 0x00000000)) := by
  rw [exec, execGetBit, accepting_idle hidle, bitTarget, if_pos hinside, ← rspWord_bitValue]
  rfl

theorem exec_setBit_of_outside (houtside : s.cfg.byteCount ≤ byteIndex) (bitOffset : Nat) (b : Bool) :
    exec (.setBit byteIndex bitOffset b) s = .next (raise .range s) := by
  rw [exec, execSetBit, accepting_idle hidle, bitTarget, if_neg (Nat.not_lt.2 houtside)]

theorem exec_getBit_of_outside (houtside : s.cfg.byteCount ≤ byteIndex) (bitOffset : Nat) :
    exec (.getBit byteIndex bitOffset) s = .next (raise .range s) := by
  rw [exec, execGetBit, accepting_idle hidle, bitTarget, if_neg (Nat.not_lt.2 houtside)]

end

/-! ### FILL -/

/-- Settles O24: inside the framebuffer a byte is the fill's, outside it none is listed before or after. -/
theorem fillWritesEveryByte : Obligations.FillWritesEveryByte := by
  intro s b hidle
  refine ⟨_, exec_fill hidle b, Memory.tabulate_wf _ _, fun a ha => ?_, fun hfb a ha => ?_⟩
  · rw [Memory.read_tabulate, if_pos ha, fillByte, patternByte_eq_getD]
  · have hunlisted : ∀ p ∈ s.fb, p.1 ≠ a := fun p hp => ((hfb p hp).trans_le ha).ne
    rw [Memory.read_tabulate, if_neg (Nat.not_lt.2 ha), Memory.read_unlisted hunlisted]

/-- Settles O25: a fill tells apart only the guard bits, and pixel and blank-column bits are none. -/
theorem fillByBitClass : Obligations.FillByBitClass := by
  intro s hidle
  refine ⟨_, _, exec_fill hidle true, exec_fill hidle false, fun k hk => ?_⟩
  have hopaque : (Memory.tabulate s.cfg.byteCount (fillByte true)).bit k = !guardBit k := bit_fill hk true
  refine ⟨fun hpixel => ?_, fun hguard => ?_, fun hblank => ?_, bit_fill hk false⟩
  · obtain ⟨-, hguard, -⟩ := (pixelBit_iff s.cfg k).1 hpixel
    exact hopaque.trans (by rw [hguard, Bool.not_false])
  · exact hopaque.trans (by rw [hguard, Bool.not_true])
  · obtain ⟨-, hguard, -⟩ := (blankColumnBit_iff s.cfg k).1 hblank
    exact hopaque.trans (by rw [hguard, Bool.not_false])

/-- Settles O26: what a fill writes depends on the configuration alone, which a fill keeps. -/
theorem fillIsIdempotent : Obligations.FillIsIdempotent := by
  intro s b hidle
  have hsecond := exec_fill (s := filled s b) hidle b
  exact ⟨filled s b, _, exec_fill hidle b, hsecond, rfl⟩

/-! ### SETBIT and GETBIT -/

/-- Settles O27: the write of one bit, and what it leaves alone. -/
theorem setBitWritesOneBit : Obligations.SetBitWritesOneBit := by
  intro s byteIndex bitOffset b hidle hform hinside hoffset
  have hbyte : (8 * byteIndex + bitOffset) / 8 = byteIndex := by omega
  exact ⟨_, exec_setBit_of_inside hidle hinside bitOffset b, Memory.setBit_wf hform _ b, Memory.bit_setBit hform _ b,
    fun a ha => Memory.read_setBit_of_ne hform _ b (by rwa [hbyte])⟩

/-- Settles O28: the bit named is the byte's own. -/
theorem getBitReadsOneBit : Obligations.GetBitReadsOneBit := by
  intro s byteIndex bitOffset hidle hinside hoffset
  rw [exec_getBit_of_inside hidle hinside, Memory.bit_of_byte s.fb byteIndex hoffset]

/-- Settles O29: outside the framebuffer no bit is named, and RANGE is raised. -/
theorem bitAccessOutOfRangeAnswersRange : Obligations.BitAccessOutOfRangeAnswersRange := by
  intro s byteIndex bitOffset b hidle houtside
  have hrange : raise .range s = answered { s with fault := firstFault s .range } 0x00000002 :=
    raise_eq_answered .range s
  rw [exec_setBit_of_outside hidle houtside, exec_getBit_of_outside hidle houtside, hrange]
  exact ⟨rfl, rfl⟩

/-! ### A read after a write -/

/-- Settles O21: the second command names the bit that the first one wrote. -/
theorem readAfterWriteReturnsTheState : Obligations.ReadAfterWriteReturnsTheState := by
  intro s b hidle hlegal hform
  refine ⟨fun x y k hbit => ?_, fun byteIndex bitOffset hinside _ => ?_⟩
  · refine ⟨bitWritten s k b, exec_setPixel_of_inside hidle hlegal hbit b, ?_⟩
    rw [exec_getPixel_of_inside (s := bitWritten s k b) hidle hlegal hbit, bit_bitWritten hform]
  · refine ⟨bitWritten s (8 * byteIndex + bitOffset) b, exec_setBit_of_inside hidle hinside bitOffset b, ?_⟩
    rw [exec_getBit_of_inside (s := bitWritten s (8 * byteIndex + bitOffset) b) hidle hinside, bit_bitWritten hform]

end Sys2Proof.Machine
end

section
/-! The chain's reaction to each event, and each step of the flush FSM with its whole effect (R151 to R158, R168,
42_transmission.md). -/

namespace Sys2Proof.Machine

/-! ### The chain -/

/-- The output latches take the staged bits on a rising edge only (R168). -/
theorem react_latch (env : Env) (v : Bool) :
    env.react (.latch v) =
      { env with visible := (if v = true ∧ env.lvl = false then env.chain else env.visible), lvl := v } := by
  simp [Env.react]

/-- Cell 0 takes the bit, and every other cell its neighbour's (R168). -/
theorem getElem?_shiftIn (v : Bool) {cells : List Bool} {k : Nat} (hk : k < cells.length) :
    (shiftIn v cells)[k]? = if k = 0 then some v else cells[k - 1]? := by
  cases k with
  | zero => exact getElem?_shiftIn_zero hk
  | succ k => exact getElem?_shiftIn_succ hk

/-- Settles O38: the reaction to each of the three events. -/
theorem chainReactsToEvents : Obligations.ChainReactsToEvents := fun env v =>
  ⟨fun _ hk => getElem?_shiftIn v hk, length_shiftIn v env.chain, rfl, rfl, react_latch env v, react_reset env⟩

/-! ### What a step without a reset runs in each state of the flush -/

section
variable {s : State} (hreset : (presented s).rst = false)
include hreset

theorem step_of_openSession (hs : s.fsm = .openSession) : step s = .next (stepOpen (takeSample s)) := by
  rw [step_of_busy (by simp [State.busy, hs]) hreset, fsmStep, takeSample_fsm, hs]

theorem step_of_latchLo (hs : s.fsm = .latchLo) : step s = .next (stepLatchLo (takeSample s)) := by
  rw [step_of_busy (by simp [State.busy, hs]) hreset, fsmStep, takeSample_fsm, hs]

theorem step_of_shift (hs : s.fsm = .shift) (hinside : s.curI.toNat < s.cfg.byteCount) :
    step s = .next (advanceCursor (bitSent (takeSample s))) := by
  rw [step_of_busy (by simp [State.busy, hs]) hreset, fsmStep, takeSample_fsm, hs]
  exact if_pos hinside

theorem step_of_latchHi (hs : s.fsm = .latchHi) : step s = .next (stepLatchHi (takeSample s)) := by
  rw [step_of_busy (by simp [State.busy, hs]) hreset, fsmStep, takeSample_fsm, hs]

theorem step_of_close (hs : s.fsm = .close) : step s = .next (stepClose (takeSample s)) := by
  rw [step_of_busy (by simp [State.busy, hs]) hreset, fsmStep, takeSample_fsm, hs]

end

/-! ### The cursor -/

/-- The bit under the cursor is bit `cur_j` of byte `cur_i` (R28, R155). -/
theorem bit_cursor (s : State) : s.fb.bit s.cursor = (s.fb.read s.curI.toNat).getLsbD s.curJ.toNat :=
  Memory.bit_of_byte s.fb s.curI.toNat (Nat.le_of_lt_succ s.curJ.isLt)

/-- What the cursor's advance does to each part of the cursor and to the FSM (R156). -/
theorem advanceCursor_eq (s : State) :
    advanceCursor s = { s with
      curI := if s.curJ ≠ 0 then s.curI else if s.curI ≠ 0 then s.curI - 1 else s.curI,
      curJ := if s.curJ ≠ 0 then s.curJ - 1 else if s.curI ≠ 0 then 7 else s.curJ,
      fsm := if s.curJ = 0 ∧ s.curI = 0 then .latchHi else s.fsm } := by
  unfold advanceCursor
  by_cases hj : s.curJ = 0
  · by_cases hi : s.curI = 0 <;>
      simp only [ne_eq, hj, hi, not_true_eq_false, not_false_eq_true, and_true, and_false, if_true, if_false]
  · simp only [ne_eq, hj, not_false_eq_true, false_and, if_true, if_false]

/-! ### The steps -/

/-- Settles O31: an accepted FLUSH only starts the FSM. -/
theorem flushStartsTheFsm : Obligations.FlushStartsTheFsm := fun _ hidle =>
  ⟨accepting_idle hidle _, rfl, rfl⟩

/-- Settles O32: the chain does not react to the session's opening. -/
theorem openStep : Obligations.OpenStep := fun _ hs hreset => ⟨_, step_of_openSession hreset hs, rfl⟩

/-- Settles O33: the last byte's index fits the cursor, and the chain notes the low level. -/
theorem latchLowStep : Obligations.LatchLowStep := by
  intro s hs hlegal hreset
  obtain ⟨hindex, -⟩ := cursor_stepLatchLo (s := takeSample s) hlegal
  refine ⟨_, step_of_latchLo hreset hs, Nat.eq_sub_of_add_eq hindex, ?_⟩
  simp only [blockOf, stepLatchLo, emit, react_latch_low, takeSample]

/-- Settles O34: the bit under the cursor goes out, and the cursor advances. -/
theorem shiftStep : Obligations.ShiftStep := by
  intro s v hs hinside hreset hv
  obtain rfl : v = s.fb.bit s.cursor := hv.trans (bit_cursor s).symm
  refine ⟨_, step_of_shift hreset hs hinside, ?_⟩
  rw [advanceCursor_eq, ← hs]
  rfl

/-- Settles O35: the chain's reaction to a high level is the rising edge's where it last saw a low one. -/
theorem latchHighStep : Obligations.LatchHighStep := by
  intro s hs hreset
  refine ⟨_, step_of_latchHi hreset hs, ?_⟩
  simp only [blockOf, stepLatchHi, emit, react_latch, takeSample, true_and]

/-- Settles O36: the chain reacts neither to the session's closing nor to the response. -/
theorem closeStep : Obligations.CloseStep := by
  intro s hs hreset
  refine ⟨_, step_of_close hreset hs, rfl, rfl, ?_⟩
  simp only [blockOf, stepClose_trace, List.append_assoc]
  rfl

end Sys2Proof.Machine
end

section
/-! What drives the serial lines and changes the display: no command does, and of the flush FSM's steps only the
rising edge presents a frame (R162, R165, R170, 42_transmission.md; R221, 70_reset_and_hazards.md). -/

namespace Sys2Proof.Machine

/-! ### Changes that leave the serial side alone -/

/-- The trace `later` goes on from `earlier` without a `Bit` or `Latch` event. -/
def AddsNoSerial (earlier later : List Event) : Prop :=
  ∃ events, later = earlier ++ events ∧ ∀ e ∈ events, e.isSerial = false

theorem AddsNoSerial.refl (trace : List Event) : AddsNoSerial trace trace :=
  ⟨[], (List.append_nil trace).symm, nofun⟩

theorem AddsNoSerial.concat {earlier later : List Event} (h : AddsNoSerial earlier later) {e : Event}
    (he : e.isSerial = false) : AddsNoSerial earlier (later ++ [e]) := by
  obtain ⟨events, rfl, hquiet⟩ := h
  exact ⟨events ++ [e], List.append_assoc _ _ _, by simpa [or_imp, forall_and, he] using hquiet⟩

/-- From `s` to `t` the serial lines and the chain are left alone, and no `Bit` or `Latch` event is emitted (R162). -/
structure SerialQuiet (s t : State) : Prop where
  sck : t.sck = s.sck
  sdo : t.sdo = s.sdo
  latch : t.latch = s.latch
  env : t.env = s.env
  trace : AddsNoSerial s.trace t.trace

theorem SerialQuiet.refl (s : State) : SerialQuiet s s := ⟨rfl, rfl, rfl, rfl, .refl s.trace⟩

/-- The chain does not react to a response (R168). -/
theorem SerialQuiet.respond {s u : State} (h : SerialQuiet s u) (status : BitVec 4) (value : BitVec 16) :
    SerialQuiet s (respond status value u) :=
  ⟨h.sck, h.sdo, h.latch, h.env, h.trace.concat rfl⟩

theorem serialQuiet_raise (code : ErrorCode) (s : State) : SerialQuiet s (raise code s) :=
  ⟨rfl, rfl, rfl, rfl, (AddsNoSerial.refl s.trace).concat rfl⟩

theorem serialQuiet_setAux (b : Bool) (s : State) : SerialQuiet s (setAux b s) := by
  unfold setAux
  split_ifs
  · exact .refl s
  · exact ⟨rfl, rfl, rfl, rfl, (AddsNoSerial.refl s.trace).concat rfl⟩

/-! ### Commands and the waiting block -/

/-- No command of an idle block touches the serial side; FLUSH only starts the FSM (R151, R162). -/
theorem exec_serialQuiet {i : Instr} {s t : State} (hidle : s.fsm = .idle) (h : exec i s = .next t) :
    SerialQuiet s t := by
  rcases exec_idle_cases hidle h with ⟨v, rfl⟩ | ⟨k, b, -, -, rfl⟩ | ⟨_, _, b, -, -, rfl⟩ | ⟨b, -, rfl⟩ |
    ⟨r, -, rfl⟩ | ⟨b, -, rfl⟩ | ⟨-, rfl⟩ | ⟨-, rfl⟩
  -- AUXCLK may emit before it answers, FLUSH does not answer yet; every other command only answers.
  case inr.inr.inr.inr.inr.inl => exact (serialQuiet_setAux b s).respond _ _
  case inr.inr.inr.inr.inr.inr.inl => exact ⟨rfl, rfl, rfl, rfl, .refl s.trace⟩
  all_goals exact ⟨rfl, rfl, rfl, rfl, (AddsNoSerial.refl s.trace).concat rfl⟩

theorem commandStep_serialQuiet {w : CmdWord} {s t : State} (hready : s.busy = false)
    (h : commandStep w s = .next t) : SerialQuiet s t := by
  rcases commandStep_ready_cases hready h with ⟨code, -, rfl⟩ | ⟨hidle, i, -, hexec⟩
  · exact serialQuiet_raise code s
  · exact exec_serialQuiet hidle hexec

/-- Everything a step can do to the serial side: it is a reset, the flush FSM's step, or quiet. -/
theorem step_serial_cases {s t : State} (h : step s = .next t) :
    (presented s).rst = true ∧ t = resetBlock (takeSample s) ∨
    (presented s).rst = false ∧ s.busy = true ∧ fsmStep (takeSample s) = .next t ∨
    SerialQuiet (takeSample s) t := by
  rcases step_cases h with hreset | hfsm | ⟨-, hready, -, hcmd⟩ | ⟨-, -, -, rfl⟩
  · exact .inl hreset
  · exact .inr (.inl hfsm)
  · exact .inr (.inr (commandStep_serialQuiet (s := takeSample s) hready hcmd))
  · exact .inr (.inr (.refl (takeSample s)))

/-- Settles O40: a step of a block that is not busy is neither a reset nor the flush FSM's. -/
theorem commandsLeaveTheSerialLines : Obligations.CommandsLeaveTheSerialLines := by
  intro s t hready hreset h
  rcases step_serial_cases h with ⟨hrst, -⟩ | ⟨-, hbusy, -⟩ | hquiet
  · exact absurd hrst (by simp [hreset])
  · exact absurd hbusy (by simp [hready])
  · exact ⟨hquiet.sck, hquiet.sdo, hquiet.latch, hquiet.trace⟩

/-! ### The display -/

/-- Of the flush FSM's steps only `LATCH_HI` changes the output latches, and to the staged bits (R157, R170). -/
theorem fsmStep_changes_visible {s t : State} (h : fsmStep s = .next t) (hchanged : t.env.visible ≠ s.env.visible) :
    s.fsm = .latchHi ∧ t.env.visible = s.env.chain ∧ t.trace = s.trace ++ [.latch true] := by
  rcases fsmStep_cases h with ⟨-, rfl⟩ | ⟨-, rfl⟩ | ⟨-, rfl⟩ | ⟨-, -, rfl⟩ | ⟨hs, rfl⟩ | ⟨-, rfl⟩
  · exact absurd rfl hchanged
  · exact absurd rfl hchanged
  · exact absurd (by simp) hchanged
  · exact absurd (by simp) hchanged
  · rw [stepLatchHi_env, react_latch] at hchanged ⊢
    exact ⟨hs, if_pos (by by_contra hlevel; exact hchanged (if_neg hlevel)), rfl⟩
  · exact absurd rfl hchanged

/-- Settles O39: a reset and a quiet step keep the output latches, so the step was the flush FSM's. -/
theorem displayChangesOnlyAtLatchHigh : Obligations.DisplayChangesOnlyAtLatchHigh := by
  intro s t h hchanged
  rcases step_serial_cases h with ⟨-, rfl⟩ | ⟨hreset, -, hfsm⟩ | hquiet
  · exact absurd (by simp) hchanged
  · obtain ⟨hs, hvisible, htrace⟩ := fsmStep_changes_visible hfsm hchanged
    exact ⟨hs, hreset, hvisible, htrace⟩
  · exact absurd (congrArg Env.visible hquiet.env) hchanged

/-! ### A reset during a flush -/

/-- What a reset emits: `EnableOut` if it switches the aux clock back, and `Reset` (R220). -/
theorem resetBlock_events (s : State) :
    ∃ events, (resetBlock s).trace = s.trace ++ events ∧ ∀ e ∈ events, e = .enableOut s.cfg.auxReset ∨ e = .reset := by
  by_cases haux : s.aux = s.cfg.auxReset
  · exact ⟨[.reset], by simp [haux], by simp⟩
  · exact ⟨[.enableOut s.cfg.auxReset, .reset], by simp [haux], by simp⟩

/-- Settles O48: a reset leaves the output latches alone, which in `CLOSE` hold the framebuffer. -/
theorem resetDuringAFlush : Obligations.ResetDuringAFlush := by
  intro s h hbusy hreset
  have hlegal : s.cfg.legal = true := h.legal fun hs => by simp [busy_of_fsm_cfgErr hs] at hbusy
  have hvisible : (resetBlock (takeSample s)).env.visible = s.env.visible := by simp
  obtain ⟨events, htrace, hevents⟩ := resetBlock_events (takeSample s)
  refine ⟨_, if_pos hreset, hvisible, by simp, by simp, by simp [hlegal], fun hs => hvisible ▸ h.presentedWhole hs,
    events, htrace, fun e he => ?_⟩
  rcases hevents e he with rfl | rfl <;> simp [Event.isSerial, Event.isRsp]

end Sys2Proof.Machine
end

section
/-! A whole flush: the steps that start it, the bits in descending order, and the frame's presentation (R159 to R161,
R164, R169, R170, 42_transmission.md; R235, 70_reset_and_hazards.md). -/

namespace Sys2Proof.Machine

/-! ### Runs without a reset -/

/-- No reset is asserted in the next `n` port samples. -/
def NoReset (n : Nat) (s : State) : Prop := ∀ p ∈ s.inputs.take n, p.rst = false

theorem NoReset.presented {n : Nat} {s : State} (h : NoReset n s) (hn : 0 < n) : (presented s).rst = false := by
  unfold Machine.presented
  cases hinputs : s.inputs with
  | nil => rfl
  | cons p rest =>
    obtain ⟨n, rfl⟩ := Nat.exists_eq_add_one.2 hn
    exact h p (by simp [hinputs])

theorem SameRegisters.trans {s t u : State} (h : SameRegisters s t) (h' : SameRegisters t u) : SameRegisters s u :=
  ⟨h'.cfg.trans h.cfg, h'.fb.trans h.fb, h'.rot.trans h.rot, h'.aux.trans h.aux, h'.fault.trans h.fault⟩

/-- `n` steps take `s` to `t`, emit `events`, keep the registers a command works on, and use up one port sample
each. -/
structure Runs (n : Nat) (events : List Event) (s t : State) : Prop where
  run : Host.Core.run Sys2Proof.core n s = .next t
  inv : t.Inv
  registers : SameRegisters s t
  trace : t.trace = s.trace ++ events
  inputs : t.inputs = s.inputs.drop n

theorem Runs.trans {m n : Nat} {events events' : List Event} {s t u : State} (h : Runs m events s t)
    (h' : Runs n events' t u) : Runs (m + n) (events ++ events') s u where
  run := (run_append Sys2Proof.core m n h.run).trans h'.run
  inv := h'.inv
  registers := h.registers.trans h'.registers
  trace := by rw [h'.trace, h.trace, List.append_assoc]
  inputs := by rw [h'.inputs, h.inputs, List.drop_drop]

/-- The samples a run leaves over assert no reset either. -/
theorem NoReset.after {m n k : Nat} {events : List Event} {s t : State} (h : NoReset n s) (hrun : Runs m events s t)
    (hk : m + k ≤ n) : NoReset k t := by
  intro p hp
  rw [hrun.inputs, List.take_drop] at hp
  exact h p (List.take_subset_take_left s.inputs hk (List.mem_of_mem_drop hp))

theorem fsmStep_inputs {s t : State} (h : fsmStep s = .next t) : t.inputs = s.inputs := by
  rcases fsmStep_cases h with ⟨-, rfl⟩ | ⟨-, rfl⟩ | ⟨-, rfl⟩ | ⟨-, -, rfl⟩ | ⟨-, rfl⟩ | ⟨-, rfl⟩ <;> simp

section
variable {s t : State} (h : s.Inv) {events : List Event}
include h

/-- One step is a run, if it keeps the registers and takes its port sample. -/
theorem Runs.of_step (hstep : step s = .next t) (hsame : SameRegisters s t) (htrace : t.trace = s.trace ++ events)
    (hinputs : t.inputs = s.inputs.tail) : Runs 1 events s t :=
  ⟨run_of_step hstep 0, stepKeepsTheInvariant s t h hstep, hsame, htrace, hinputs.trans List.drop_one.symm⟩

/-- A step of the flush FSM is one. -/
theorem Runs.of_busy (hbusy : s.busy = true) (hreset : (presented s).rst = false) (hstep : step s = .next t)
    (htrace : t.trace = s.trace ++ events) : Runs 1 events s t := by
  have hfsm : fsmStep (takeSample s) = .next t := (step_of_busy hbusy hreset).symm.trans hstep
  have hsame := fsmStep_sameRegisters hfsm
  exact .of_step h hstep ⟨hsame.cfg, hsame.fb, hsame.rot, hsame.aux, hsame.fault⟩ htrace (fsmStep_inputs hfsm)

end

/-! ### The start of a flush -/

/-- The step that accepts FLUSH (R151). -/
theorem runs_accept {s : State} (h : s.Inv) (hidle : s.fsm = .idle) (hcommand : commandPresented s)
    (hflush : decode (presented s).cmdData = .ok .flush) : ∃ t, Runs 1 [] s t ∧ t.fsm = .openSession := by
  have hstep : step s = .next { takeSample s with fsm := .openSession } := by
    rw [step_of_ready (busy_of_fsm_idle hidle) hcommand, commandStep_of_decode hflush]
    exact accepting_idle (s := takeSample s) hidle _
  exact ⟨_, .of_step h hstep ⟨rfl, rfl, rfl, rfl, rfl⟩ (List.append_nil _).symm rfl, rfl⟩

/-- The `OPEN` and the `LATCH_LO` step bring the cursor to the framebuffer's last bit (R153, R154). -/
theorem runs_open {s : State} (h : s.Inv) (hs : s.fsm = .openSession) (hreset : NoReset 2 s) :
    ∃ t, Runs 2 [.sessionOpen, .latch false] s t ∧ t.fsm = .shift ∧ t.cursor + 1 = s.cfg.bitCount := by
  have hopen := hreset.presented (by omega)
  have hfirst : Runs 1 [.sessionOpen] s (stepOpen (takeSample s)) :=
    .of_busy h (by simp [State.busy, hs]) hopen (step_of_openSession hopen hs) rfl
  have hlatch := (hreset.after (k := 1) hfirst (by omega)).presented (by omega)
  have hsecond := Runs.of_busy hfirst.inv rfl hlatch (step_of_latchLo hlatch rfl) rfl
  obtain ⟨-, hcursor⟩ := cursor_stepLatchLo (s := takeSample (stepOpen (takeSample s))) (h.legal (by simp [hs]))
  exact ⟨_, hfirst.trans hsecond, rfl, hcursor⟩

/-! ### The bits -/

/-- The `Bit` events of bits `n - 1` down to 0 (R161). -/
def bitsSent (m : Memory) (n : Nat) : List Event := (List.range n).map fun k => .bit (m.bit (n - 1 - k))

theorem bitsSent_succ (m : Memory) (n : Nat) : bitsSent m (n + 1) = .bit (m.bit n) :: bitsSent m n := by
  simp only [bitsSent, List.range_succ_eq_map, List.map_cons, List.map_map, List.cons.injEq, Nat.add_sub_cancel,
    Nat.sub_zero, true_and]
  refine List.map_congr_left fun k _ => ?_
  rw [Function.comp_apply, Nat.succ_eq_one_add, Nat.sub_sub n 1 k]

/-- One `SHIFT` step sends the bit under the cursor; the cursor goes to the bit below, and from bit 0 the FSM goes
on (R155, R156). -/
theorem runs_shift_step {s : State} (h : s.Inv) (hs : s.fsm = .shift) (hreset : (presented s).rst = false) :
    ∃ t, Runs 1 [.bit (s.fb.bit s.cursor)] s t ∧
      (s.cursor = 0 ∧ t.fsm = .latchHi ∨ t.fsm = .shift ∧ t.cursor + 1 = s.cursor) := by
  refine ⟨_, .of_busy h (by simp [State.busy, hs]) hreset (step_of_shift hreset hs (h.cursorInside hs)) ?_, ?_⟩
  · rw [advanceCursor_trace]
    rfl
  · rcases advanceCursor_cases (bitSent (takeSample s)) with ⟨hcursor, heq⟩ | ⟨i, j, heq, hcursor, -⟩
    · exact .inl ⟨hcursor, by rw [heq]⟩
    · exact .inr ⟨by rw [heq]; exact hs, by rw [heq]; exact hcursor⟩

/-- From the cursor on every bit goes out in descending order (R160, R161). -/
theorem runs_shift {s : State} {k : Nat} (h : s.Inv) (hs : s.fsm = .shift) (hcursor : s.cursor = k)
    (hreset : NoReset (k + 1) s) : ∃ t, Runs (k + 1) (bitsSent s.fb (k + 1)) s t ∧ t.fsm = .latchHi := by
  induction k generalizing s with
  | zero =>
    obtain ⟨t, hrun, ⟨-, ht⟩ | ⟨-, hnext⟩⟩ := runs_shift_step h hs (hreset.presented (by omega))
    · exact ⟨t, by rwa [hcursor] at hrun, ht⟩
    · omega
  | succ k ih =>
    obtain ⟨t, hrun, ⟨hlast, -⟩ | ⟨ht, hnext⟩⟩ := runs_shift_step h hs (hreset.presented (by omega))
    · omega
    · obtain ⟨u, hrest, hu⟩ := ih hrun.inv ht (by omega) (hreset.after hrun (by omega))
      have hevents : bitsSent s.fb (k + 1 + 1) = [.bit (s.fb.bit s.cursor)] ++ bitsSent t.fb (k + 1) := by
        rw [bitsSent_succ, hcursor, hrun.registers.fb, List.singleton_append]
      rw [hevents, Nat.add_comm (k + 1) 1]
      exact ⟨u, hrun.trans hrest, hu⟩

/-! ### The frame's presentation -/

/-- The `LATCH_HI` step copies the chain, which holds the framebuffer, to the output latches, and the `CLOSE` step
answers (R157, R158, R169, R170). -/
theorem runs_present {s : State} (h : s.Inv) (hs : s.fsm = .latchHi) (hreset : NoReset 2 s) :
    ∃ t, Runs 2 [.latch true, .sessionClose, .rsp 0x00000000] s t ∧ t.fsm = .idle ∧ t.rsp = some 0x00000000 ∧
      t.latch = true ∧ ∀ k, k < s.cfg.bitCount →
        t.env.visible[k]? = some (s.fb.bit k) ∧ t.env.chain[k]? = some (s.fb.bit k) := by
  have hrise := hreset.presented (by omega)
  have hfirst : Runs 1 [.latch true] s (stepLatchHi (takeSample s)) :=
    .of_busy h (by simp [State.busy, hs]) hrise (step_of_latchHi hrise hs) rfl
  have hclose := (hreset.after (k := 1) hfirst (by omega)).presented (by omega)
  have hsecond := Runs.of_busy hfirst.inv rfl hclose (step_of_close hclose rfl) (List.append_assoc _ _ _)
  exact ⟨_, hfirst.trans hsecond, rfl, rfl, rfl,
    fun k hk => ⟨hfirst.inv.presentedWhole rfl k hk, h.stagedWhole hs k hk⟩⟩

/-- Settles O37: the start of the flush, its bits from the last one down, and the frame's presentation, one after the
other; the invariant says what the chain and its output latches hold. -/
theorem flushPresentsTheFrame : Obligations.FlushPresentsTheFrame := by
  intro s h hidle hcommand hflush hsamples
  have hreset : NoReset (s.cfg.bitCount + 5) s := hsamples
  obtain ⟨a, haccept, ha⟩ := runs_accept h hidle hcommand hflush
  obtain ⟨b, hopen, hb, hcursor⟩ := runs_open haccept.inv ha (hreset.after haccept (by omega))
  have hstart := haccept.trans hopen
  rw [haccept.registers.cfg] at hcursor
  obtain ⟨c, hbits, hc⟩ := runs_shift hopen.inv hb rfl (hreset.after hstart (by omega))
  rw [hcursor, hstart.registers.fb] at hbits
  have hsent := hstart.trans hbits
  obtain ⟨t, hpresent, ht, hrsp, hlatch, hshown⟩ := runs_present hsent.inv hc (hreset.after hsent (by omega))
  rw [hsent.registers.cfg, hsent.registers.fb] at hshown
  have hall := hsent.trans hpresent
  have hsteps : 1 + 2 + s.cfg.bitCount + 2 = s.cfg.bitCount + 5 := by omega
  rw [hsteps] at hall
  have hregisters := hall.registers
  refine ⟨t, hall.run, hall.trace.trans (by simp [bitsSent]), hshown, ht, hrsp, hlatch, ?_, hall.inv.sckLow,
    hregisters.fb, hregisters.cfg, hregisters.rot, hregisters.aux, hregisters.fault, hall.inputs⟩
  rw [hall.inv.sessionLevel, ht]
  rfl

end Sys2Proof.Machine
end

section
/-! AUXCLK in `IDLE`: the write of the enable, without a change and with one (R180, 43_clock_enable.md). -/

namespace Sys2Proof.Machine

theorem setAux_of_unchanged {s : State} {b : Bool} (hsame : s.aux = b) : setAux b s = s := if_pos hsame

/-- The chain does not react to `EnableOut` (R168). -/
theorem setAux_of_changed {s : State} {b : Bool} (hchange : s.aux ≠ b) :
    setAux b s = { s with aux := b, trace := s.trace ++ [.enableOut b] } := if_neg hchange

theorem exec_auxClk {s : State} (hidle : s.fsm = .idle) (b : Bool) :
    exec (.auxClk b) s = .next (answered (setAux b s) 0x00000000) := by
  rw [exec, execAuxClk, accepting_idle hidle, respond_eq_answered, rspWord_ok_zero]

/-- Settles O30, by whether the enable already has the value. -/
theorem auxClkSwitchesTheEnable : Obligations.AuxClkSwitchesTheEnable := by
  intro s b hidle
  rw [exec_auxClk hidle]
  by_cases hsame : s.aux = b
  · rw [if_pos hsame, setAux_of_unchanged hsame]
  · rw [if_neg hsame, setAux_of_changed hsame]

end Sys2Proof.Machine
end

section
/-! A block in `CFGERR`: every word is answered CONFIG, and nothing but a response or a reset happens (R203, R206,
60_exceptions.md). -/

namespace Sys2Proof.Machine

/-! ### What is presented to it -/

/-- An error after the first only answers: the record keeps the first code (R201). -/
theorem raise_of_recorded {s : State} {first : ErrorCode} (hfault : s.fault = some first) (code : ErrorCode) :
    raise code s = answered s (rspWord code.status 0) := by
  have hkept : firstFault s code = s.fault := by rw [firstFault_eq, hfault, Option.getD_some]
  rw [raise_eq_answered, hkept]

/-- Whether the word decodes makes no difference: CONFIG comes before ILLEGAL (R203, R206). -/
theorem commandStep_cfgErr {s : State} (hs : s.fsm = .cfgErr) (w : CmdWord) :
    commandStep w s = .next (raise .config s) := by
  cases hdecode : decode w with
  | ok i => exact (commandStep_of_decode hdecode s).trans (exec_cfgErr hs i)
  | error why => exact (commandStep_of_error hdecode s).trans (accepting_cfgErr hs _)

/-- Settles O42: with CONFIG recorded already, the error that answers every command and every word only answers. -/
theorem configErrorAnswersEveryWord : Obligations.ConfigErrorAnswersEveryWord := by
  intro s hs hfault
  refine ⟨fun i => ?_, fun hcommand => ?_⟩
  · rw [exec_cfgErr hs, raise_of_recorded hfault]
    rfl
  · rw [step_of_ready (busy_of_fsm_cfgErr hs) hcommand, commandStep_cfgErr (s := takeSample s) hs,
      raise_of_recorded (s := takeSample s) hfault]
    rfl

/-! ### What it emits -/

/-- Everything a step from `CFGERR` can do: a reset, the answer CONFIG, or nothing (R203). -/
theorem step_cfgErr_cases {s t : State} (hs : s.fsm = .cfgErr) (h : step s = .next t) :
    t = resetBlock (takeSample s) ∨ t = raise .config (takeSample s) ∨ t = takeSample s := by
  rcases step_cases h with ⟨-, hreset⟩ | ⟨-, hbusy, -⟩ | ⟨-, -, -, hcmd⟩ | ⟨-, -, -, hquiet⟩
  · exact .inl hreset
  · exact absurd hbusy (by simp [busy_of_fsm_cfgErr hs])
  · rw [commandStep_cfgErr (s := takeSample s) hs] at hcmd
    cases hcmd
    exact .inr (.inl rfl)
  · exact .inr (.inr hquiet)

/-- A step from `CFGERR` emits `Reset`, a response, or nothing; a reset has no aux clock to switch back (R203, R220). -/
theorem step_cfgErr_events {s t : State} (hs : s.fsm = .cfgErr) (haux : s.aux = s.cfg.auxReset)
    (h : step s = .next t) :
    ∃ events, t.trace = s.trace ++ events ∧ ∀ e ∈ events, e.isSerial = false ∧ e.isEnableOut = false := by
  rcases step_cfgErr_cases hs h with rfl | rfl | rfl
  · exact ⟨[.reset], by simp [haux], by simp [Event.isSerial, Event.isEnableOut]⟩
  · exact ⟨_, rfl, by simp [Event.isSerial, Event.isEnableOut]⟩
  · exact ⟨[], by simp, nofun⟩

/-- Settles O43: the configuration stays illegal, so the invariant after the step says where the block is and what it
holds; the step's cases say what it emits. -/
theorem configErrorIsSilent : Obligations.ConfigErrorIsSilent := by
  intro s t h hs hstep
  have ht : t.Inv := stepKeepsTheInvariant s t h hstep
  have hcfg : t.cfg = s.cfg := configurationNeverChanges s t hstep
  have hstays : t.fsm = .cfgErr := ht.cfgErrIff.2 (hcfg ▸ h.cfgErrIff.1 hs)
  obtain ⟨hfb, -, haux, -⟩ := h.cfgErrQuiet hs
  obtain ⟨hfb', -, haux', -⟩ := ht.cfgErrQuiet hstays
  exact ⟨hstays, ht.configFault.2 hstays, hfb'.trans hfb.symm, haux'.trans (congrArg Config.auxReset hcfg),
    step_cfgErr_events hs haux hstep⟩

end Sys2Proof.Machine
end

section
/-! The two steps that run neither the flush FSM nor a command: a reset, and a ready block that waits (R220, R222,
R223, R234, 70_reset_and_hazards.md). -/

namespace Sys2Proof.Machine

/-! ### A reset -/

/-- What a reset emits, in order: the aux clock's switch back if it is one, then `Reset` (R220). -/
theorem resetBlock_trace_eq_append (s : State) :
    (resetBlock s).trace =
      s.trace ++ (if s.aux = s.cfg.auxReset then [] else [.enableOut s.cfg.auxReset]) ++ [.reset] := by
  rw [resetBlock_trace]
  split_ifs
  · rw [List.append_nil]
  · rfl

/-- Settles O47: the step is the reset of the state that has taken its port sample, read element by element. -/
theorem resetStep : Obligations.ResetStep := by
  intro s hreset
  have hzero (a : Nat) : (resetBlock (takeSample s)).fb.read a = 0x00 := by rw [resetBlock_fb, Memory.read_nil]
  exact ⟨resetBlock (takeSample s), if_pos hreset, hzero, resetBlock_rot _, resetBlock_aux _, resetBlock_curI _,
    resetBlock_curJ _, resetBlock_session _, resetBlock_latch _, resetBlock_sck _, resetBlock_fsm _, resetBlock_fault _,
    resetBlock_rsp _, resetBlock_cfg _, resetBlock_env _, resetBlock_trace_eq_append _⟩

/-! ### A block that waits -/

/-- A step of a ready block to which nothing is presented only takes the port sample (R234). -/
theorem step_of_waiting {s : State} (hready : s.busy = false) (hreset : (presented s).rst = false)
    (hnothing : (presented s).cmdValid = false) : step s = .next (takeSample s) := by
  simp [step, hreset, hready, hnothing]

/-- Settles O51: a ready block is not busy. -/
theorem readyBlockWaits : Obligations.ReadyBlockWaits := fun _ hready =>
  step_of_waiting (by simpa [cmdReady_eq] using hready)

end Sys2Proof.Machine
end
